-- ==== Sys2Proof/Word.lean ====
section
/-! DEFINITION. The words of the TWIKBD block: bytes and event words (00_scope.md R7, R8; 30_encoding.md R50).
Every value is unsigned (R8). -/

namespace Sys2Proof

/-- One byte: a command, a data byte, an indicator, a value, a key code (00_scope.md R7). -/
abbrev Byte := BitVec 8

/-- An event word of format EVT: class in bits 10:8, payload in bits 7:0 (30_encoding.md R54). -/
abbrev EvtWord := BitVec 11

end Sys2Proof
end

