-- ==== Sys2Proof/Machine/Moves.lean ====
section
/-! DEFINITION. The moves: what can happen next to the block. The steps of 00_scope.md R9 that have no encoding
(30_encoding.md R58), the event agent's EVENT, and the three things the environment may do at its boundary
(10_state.md R28, R32; 20_memory.md R36; 60_exceptions.md R135). -/

namespace Sys2Proof.Machine

inductive Move where
  /-- RESET: RESET_IN is asserted, by power-on, an external reset or the watchdog (70_reset_and_hazards.md R139, R140). -/
  | reset
  /-- LK_STEP: one step of the lookup engine (40_address_lookup.md R60). -/
  | lkStep
  /-- EVENT(w): the event agent takes the word w that stands on EVT_IN (41_bus_slave_receiver.md R71). -/
  | event
  /-- PASS: one main-loop pass (43_press_release_sequencer.md R110). -/
  | pass
  /-- TICK: one tick of the counter's clock (R106). -/
  | tick
  /-- HID_READ: the report producer asks for the key (R119). -/
  | hidRead
  /-- The bus peripheral presents the word w on EVT_IN (10_state.md R28). -/
  | present (w : EvtWord)
  /-- The bus peripheral presents the word that EVENT_MAP gives a raw status, with a data byte (60_exceptions.md R135, P7). -/
  | report (status data : Byte)
  /-- PS is programmed out of band: byte b at address a (20_memory.md R36). -/
  | program (a : Nat) (b : Byte)
  deriving DecidableEq, Repr, Inhabited

end Sys2Proof.Machine
end

