-- ==== Sys2Proof/Config.lean ====
section
/-! DEFINITION. What an implementation fixes and the spec leaves OPEN (00_scope.md R6), and the free values.

The parameters are plain data, a field of State that no step changes: a claim over all states is a claim over all
configurations (log 1). The constraints of R6 are `Machine.configOk`. The free values have no body: nothing can be proved
of them but that they are values of their type. -/

namespace Sys2Proof

/-- The event classes of 30_encoding.md R55 that EVENT_MAP can give a peripheral status. -/
inductive EventClass where
  | addrRx | dataRx | dataNack | stop | addrTx | busErr | other
  deriving DecidableEq, Repr

/-- A positive quantity as a fraction. DESIGN CHOICE (log 20): for F_TICK in Hz and WDT_MIN in seconds, which no rule reads. -/
structure Ratio where
  num : Nat
  den : Nat
  deriving DecidableEq, Repr

/-- How the peripheral reads the address byte: the two readings 00_scope.md R6 names for ADDR_FORMAT, and any other. -/
inductive AddrFormat where
  /-- A 7-bit address in bits 6:0. -/
  | low7
  /-- A pre-shifted address: bits 7:1. -/
  | preShifted
  /-- Another function, the opaque `Config.otherAddrFormat`. -/
  | other
  deriving DecidableEq, Repr

/-- The parameters of 00_scope.md R6, in the order of its table, and the Keypad Enter usage, which it has no row for (log 26). -/
structure Config where
  /-- N_CELLS, the number of cells of the persistent address table. -/
  nCells : Nat
  /-- TABLE_BASE, the PS address of indicator byte 0. -/
  tableBase : Nat
  /-- PS_AW, the address width of PS. -/
  psAw : Nat
  /-- DEFAULT_ADDR, the address when no cell is active. -/
  defaultAddr : Byte
  /-- ADDR_FORMAT, how the peripheral interprets the address output. -/
  addrFormat : AddrFormat
  /-- TIMER_W, the width of TCNT and DEADLINE. -/
  timerW : Nat
  /-- F_TICK, the tick rate in Hz. No rule reads it. -/
  fTick : Ratio
  /-- PRESS_NORMAL, the deadline of commands 0x03 to 0x0D. -/
  pressNormal : Nat
  /-- PRESS_LONG, the deadline of commands 0x0E and 0x0F. -/
  pressLong : Nat
  /-- RELEASE_HOLD, the deadline of RELEASING. -/
  releaseHold : Nat
  /-- The HID usage of Keypad Enter, which KEY_CODE[0x07] must be (42_command_dispatch.md R88). The spec gives it no value,
  and R6's table no row. DESIGN CHOICE (log 26): a field beside the table, so any value may be the usage. -/
  keypadEnter : Byte
  /-- KEY_CODE for the commands 0x03 to 0x0F, in that order. -/
  keyCode : Vector Byte 13
  /-- BLINK_W, the width of BLINK. -/
  blinkW : Nat
  /-- BLINK_END, the final threshold of the blink sequence. -/
  blinkEnd : Nat
  /-- BLINK_PATTERN: a count and the LED action it triggers. Read by the LED collaborator only. R6 does not say what an LED
  action is. DESIGN CHOICE (log 20): a number that names it. -/
  blinkPattern : List (Nat × Nat)
  /-- SENTINEL_ADDR, the DS address of the bootloader sentinel. -/
  sentinelAddr : Nat
  /-- SENTINEL_BYTES, the sentinel in address order. -/
  sentinelBytes : List Byte
  /-- WDT_MIN, the watchdog's minimum timeout in seconds. No rule reads it. -/
  wdtMin : Ratio
  /-- EVENT_MAP: the statuses that are not EV_OTHER, with their class. A status not listed is EV_OTHER. -/
  eventMap : List (Byte × EventClass)
  /-- FAULT_MARKER, the marker string of a fatal fault. -/
  faultMarker : List Byte
  deriving DecidableEq, Repr

/-- P_EX, the spec's example parameter set (92_eei_decisions.md D32). Its values are not the source's, and no claim about
the real device may use them. PRESUMED (log 19): what D32 does not give (F_TICK, WDT_MIN, BLINK_PATTERN) and the numeric
statuses of the default EVENT_MAP, which are the instance of 93_implementation_defined.md GK2. -/
def Config.pEx : Config where
  nCells := 4
  tableBase := 0
  psAw := 8
  defaultAddr := 0x10#8
  addrFormat := .low7
  timerW := 8
  fTick := ⟨1000, 1⟩
  pressNormal := 100
  pressLong := 200
  releaseHold := 50
  keypadEnter := 0x58#8
  keyCode := #v[0xA3#8, 0xA4#8, 0xA5#8, 0xA6#8, 0x58#8, 0xA8#8, 0xA9#8, 0xAA#8, 0xAB#8, 0xAC#8, 0xAD#8, 0xAE#8, 0xAF#8]
  blinkW := 8
  blinkEnd := 4
  blinkPattern := []
  sentinelAddr := 0x0800
  sentinelBytes := [0x77#8, 0x77#8]
  wdtMin := ⟨1, 1000⟩
  eventMap := [(0x60#8, .addrRx), (0x80#8, .dataRx), (0x88#8, .dataNack), (0xA0#8, .stop), (0xA8#8, .addrTx), (0x00#8, .busErr)]
  faultMarker := [0x21#8]

/-- An ADDR_FORMAT that is neither of the two R6 names: the peripheral setting that an 8-bit SLAVE_ADDR stands for
(00_scope.md R6; 40_address_lookup.md R69). The setting's type is the peripheral's, a number here (log 20). -/
opaque Config.otherAddrFormat : Byte → Nat

/-- Free value: the move that comes when the script names none, the k-th such draw. 00_scope.md R9 leaves the order of the
agents open (log 4). -/
opaque Config.schedule : Nat → Machine.Move

/-- Free value: the byte of PS at an address the state does not list, the launch's own image (20_memory.md R36; log 12). -/
opaque Config.psImage : Nat → Byte

/-- Free value: TCNT after the k-th RESET step, an arbitrary value (70_reset_and_hazards.md R139; log 3). -/
opaque Config.resetTcnt : Nat → Nat

/-- Free value: TOV after the k-th RESET step (R139; log 3). -/
opaque Config.resetTov : Nat → Bool

/-- Free value: DEADLINE after the k-th RESET step (R139; log 3). -/
opaque Config.resetDeadline : Nat → Nat

/-- Free value: TXDATA after the k-th RESET step (R139; log 3). -/
opaque Config.resetTxdata : Nat → Byte

/-- Free value: ADDR after the k-th RESET step (R139; log 3). -/
opaque Config.resetAddr : Nat → Byte

end Sys2Proof
end

