-- ==== Sys2Proof/Machine/State.lean ====
section
/-! DEFINITION. The state of the TWIKBD block as plain data (10_state.md), its faults and refusals, and the state after
reset. Registers whose width is a parameter are numbers, kept in range by the operations that write them (log 16). The
2-bit fields with unused codes are enumerations without them (93_implementation_defined.md U2; log 17). -/

namespace Sys2Proof.Machine

/-- STATE (10_state.md R11). -/
inductive ExecState where
  | idle | pressing | releasing
  deriving DecidableEq, Repr

/-- LK_PHASE (10_state.md R21). -/
inductive LkPhase where
  | scan | fetch | done
  deriving DecidableEq, Repr

/-- RUN (10_state.md R24). -/
inductive RunMode where
  | boot | running | rebooting | faulted
  deriving DecidableEq, Repr

/-- FCAUSE (10_state.md R26; 60_exceptions.md R124). -/
inductive FCause where
  | none | protocol
  deriving DecidableEq, Repr

/-- What leaves the block, one entry per emission: the strobes of 10_state.md R30, the address of each PS read
(20_memory.md R41) and the byte each HID_READ returns (43_press_release_sequencer.md R119). -/
inductive Output where
  /-- STOP_RECOVER (41_bus_slave_receiver.md R78). -/
  | stopRecover
  /-- DBG_MARKER: the bytes put on the debug channel (60_exceptions.md R128). -/
  | dbgMarker (bytes : List Byte)
  /-- WDT_ARM (42_command_dispatch.md R87). -/
  | wdtArm
  /-- DS_WRITE(addr, bytes) (42_command_dispatch.md R87). -/
  | dsWrite (addr : Nat) (bytes : List Byte)
  /-- BLINK_AT(n) (44_diagnostic_blink.md R120). -/
  | blinkAt (n : Nat)
  /-- A read of the byte at an address of PS, answered on PS_RDATA. -/
  | psRead (addr : Nat)
  /-- The value a HID_READ returned. -/
  | hidReturn (key : Byte)
  deriving DecidableEq, Repr

/-- A memory: (address, byte) pairs with strictly rising addresses, none equal to what an unlisted address reads as
(`Memory.wf`). -/
abbrev Memory := List Host.Cell

/-- The state. -/
structure State where
  /-- The parameters of 00_scope.md R6, which no step changes (log 1). -/
  cfg : Config
  /-- STATE (10_state.md R11). -/
  state : ExecState
  /-- DEADLINE, TIMER_W bits (R12). -/
  deadline : Nat
  /-- KEY (R13). -/
  key : Byte
  /-- MBOX (R15). -/
  mbox : Byte
  /-- TCNT, TIMER_W bits (R16). -/
  tcnt : Nat
  /-- TOV (R17). -/
  tov : Bool
  /-- RXACK (R18). -/
  rxack : Bool
  /-- TXDATA (R19). -/
  txdata : Byte
  /-- BLINK, BLINK_W bits (R20). -/
  blink : Nat
  /-- LK_PHASE (R21). -/
  lkPhase : LkPhase
  /-- LK_IDX (R22). -/
  lkIdx : Nat
  /-- LK_BEST, an index or the spec's own `none` (R22). -/
  lkBest : Option Nat
  /-- ADDR (R23). -/
  addr : Byte
  /-- RUN (R24). -/
  run : RunMode
  /-- IE (R25). -/
  ie : Bool
  /-- FCAUSE (R26). -/
  fcause : FCause
  /-- FSTATUS (R26). -/
  fstatus : Byte
  /-- PS, the persistent space (20_memory.md R34). -/
  ps : Memory
  /-- DS, the data space (20_memory.md R34). -/
  ds : Memory
  /-- EVT_IN: the word the peripheral presents, if it presents one (10_state.md R28, R32). -/
  evtIn : Option EvtWord
  /-- What has left the block, oldest first (the model's own record; log 14). -/
  trace : List Output
  /-- The moves to come, first one next (the model's own; log 4). -/
  script : List Move
  /-- How many moves were drawn from the free schedule (the model's own; log 4). -/
  clock : Nat
  /-- How many RESET steps have drawn free values (the model's own; log 3). -/
  resets : Nat
  deriving DecidableEq, Repr

/-- Why the machine stops. -/
inductive Fault where
  /-- Raised by every move but RESET, and every instruction, in run mode FAULTED, where nothing is enabled: FAULTED "is a
  fault" (60_exceptions.md R126; 93_implementation_defined.md U7; log 6). Safe. -/
  | protocolFault
  /-- Raised by LK_STEP in SCAN with LK_IDX > N_CELLS, for which no rule exists and which no run reaches (log 18). Safe. -/
  | scanPastTable
  /-- Raised by LK_STEP in FETCH with LK_BEST = none: 40_address_lookup.md R64 has an index there; no run reaches it
  (log 18). Safe. -/
  | fetchWithoutCandidate
  /-- Raised by a PS read outside the table region, which the block never issues and "A model may refuse" (20_memory.md
  R41; log 18). Safe. -/
  | psOutsideTable
  deriving DecidableEq, Repr

/-- Why the model gives a step no meaning. -/
inductive Refusal where
  /-- An instruction whose arm of `exec` has no meaning; raised by no instruction of this model. Safe. -/
  | notModelled (mnemonic : String)
  /-- Raised by `step` when the configuration violates a constraint of 00_scope.md R6, as R6 asks. Safe. -/
  | badConfig
  deriving DecidableEq, Repr

/-- The state a launch starts in: 70_reset_and_hazards.md R139 under a configuration, with PS listing the given bytes.
DEADLINE, TCNT, TOV, TXDATA and ADDR, which R139 leaves unspecified, are 0. DESIGN CHOICE (log 2), unsafe. -/
def State.launch (cfg : Config) (ps : Memory) : State where
  cfg := cfg
  state := .idle
  deadline := 0
  key := 0x00#8
  mbox := 0x00#8
  tcnt := 0
  tov := false
  rxack := true
  txdata := 0x00#8
  blink := 0
  lkPhase := .scan
  lkIdx := 0
  lkBest := none
  addr := 0x00#8
  run := .boot
  ie := false
  fcause := .none
  fstatus := 0x00#8
  ps := ps
  ds := []
  evtIn := none
  trace := []
  script := []
  clock := 0
  resets := 0

/-- The machine right after reset, under the example parameter set P_EX (log 1) and with no byte of PS listed (log 12). -/
def State.reset : State := State.launch Config.pEx []

end Sys2Proof.Machine
end

