-- ==== Sys2Proof/Machine/Flags.lean ====
section
/-! DEFINITION. The free-running counter and the block's one flag, TOV (10_state.md R16, R17, R27;
43_press_release_sequencer.md R106 to R108). -/

namespace Sys2Proof.Machine

/-- The greatest value of a TIMER_W-bit counter. -/
def counterMax (cfg : Config) : Nat := 2 ^ cfg.timerW - 1

/-- TCNT after a tick: 0 after the greatest value, else one more, modulo 2^TIMER_W (43_press_release_sequencer.md R106;
00_scope.md R8). -/
def tickedTcnt (cfg : Config) (tcnt : Nat) : Nat :=
  if tcnt = counterMax cfg then 0 else (tcnt + 1) % 2 ^ cfg.timerW

/-- TOV after a tick: set on the wrap, never cleared (R106; 10_state.md R17). -/
def tickedTov (cfg : Config) (tcnt : Nat) (tov : Bool) : Bool :=
  if tcnt = counterMax cfg then true else tov

/-- expired(): TCNT > DEADLINE or TOV = 1 (43_press_release_sequencer.md R108; strict, 90_conflicts.md C3). -/
def expired (s : State) : Bool := decide (s.deadline < s.tcnt) || s.tov

/-- reset_counter(): TCNT <- 0, TOV <- 0 (43_press_release_sequencer.md R107). -/
def resetCounter (s : State) : State := { s with tcnt := 0, tov := false }

/-- The writes of TICK (43_press_release_sequencer.md R106). -/
def tickCounter (s : State) : State :=
  { s with tcnt := tickedTcnt s.cfg s.tcnt, tov := tickedTov s.cfg s.tcnt s.tov }

end Sys2Proof.Machine
end

