-- ==== Sys2Proof/Syntax.lean ====
section
/-! DEFINITION. The syntax: one constructor per mnemonic of spec/opcode_table.json. A command (CMD) has no operand but
CMD_IGN, which keeps its byte since the row stands for 240 of them; an event (EVT) has its payload byte
(30_encoding.md R53, R54, R56). The steps without an encoding (R58) are `Machine.Move`. -/

namespace Sys2Proof

inductive Instr where
  /-- CMD 0x00, no command pending (42_command_dispatch.md R85). -/
  | cmdNone
  /-- CMD 0x01, diagnostic blink (R86). -/
  | cmdBlink
  /-- CMD 0x02, reboot into the bootloader (R87). -/
  | cmdBoot
  /-- CMD 0x03, key press, NORMAL duration (R90). -/
  | cmdKey03
  /-- CMD 0x04, key press, NORMAL duration (R91). -/
  | cmdKey04
  /-- CMD 0x05, key press, NORMAL duration (R92). -/
  | cmdKey05
  /-- CMD 0x06, key press, NORMAL duration (R93). -/
  | cmdKey06
  /-- CMD 0x07, key press, NORMAL duration (R94). -/
  | cmdKey07
  /-- CMD 0x08, key press, NORMAL duration (R95). -/
  | cmdKey08
  /-- CMD 0x09, key press, NORMAL duration (R96). -/
  | cmdKey09
  /-- CMD 0x0A, key press, NORMAL duration (R97). -/
  | cmdKey0A
  /-- CMD 0x0B, key press, NORMAL duration (R98). -/
  | cmdKey0B
  /-- CMD 0x0C, key press, NORMAL duration (R99). -/
  | cmdKey0C
  /-- CMD 0x0D, key press, NORMAL duration (R100). -/
  | cmdKey0D
  /-- CMD 0x0E, key press, LONG duration (R101). -/
  | cmdLkey0E
  /-- CMD 0x0F, key press, LONG duration (R102). -/
  | cmdLkey0F
  /-- CMD 0x10 to 0xFF, ignored (R103). -/
  | cmdIgn (c : Byte)
  /-- EVT class 0b000, addressed as receiver (41_bus_slave_receiver.md R73). -/
  | evAddrRx (payload : Byte)
  /-- EVT class 0b001, data byte received and acknowledged (R74). -/
  | evDataRx (b : Byte)
  /-- EVT class 0b010, data byte received and not acknowledged (R75). -/
  | evDataNack (payload : Byte)
  /-- EVT class 0b011, stop condition (R76). -/
  | evStop (payload : Byte)
  /-- EVT class 0b100, addressed as transmitter (R77). -/
  | evAddrTx (payload : Byte)
  /-- EVT class 0b101, bus error (R78). -/
  | evBusErr (payload : Byte)
  /-- EVT class 0b110, any other peripheral status (R79). -/
  | evOther (status : Byte)
  /-- EVT class 0b111, reserved, taken as EV_OTHER (R57, R79). -/
  | evReserved7 (status : Byte)
  deriving DecidableEq, Repr

end Sys2Proof
end

