-- ==== Sys2Proof/WellFormed.lean ====
section
/-! DEFINITION. Which instructions are well formed: those some word decodes to. Only CMD_IGN has a field that can be
wrong: its byte has a non-zero high nibble (30_encoding.md R52; 42_command_dispatch.md R103). -/

namespace Sys2Proof

def Instr.wf : Instr → Bool
  | .cmdNone => true
  | .cmdBlink => true
  | .cmdBoot => true
  | .cmdKey03 => true
  | .cmdKey04 => true
  | .cmdKey05 => true
  | .cmdKey06 => true
  | .cmdKey07 => true
  | .cmdKey08 => true
  | .cmdKey09 => true
  | .cmdKey0A => true
  | .cmdKey0B => true
  | .cmdKey0C => true
  | .cmdKey0D => true
  | .cmdLkey0E => true
  | .cmdLkey0F => true
  | .cmdIgn c => c.extractLsb' 4 4 != 0#4
  | .evAddrRx _ => true
  | .evDataRx _ => true
  | .evDataNack _ => true
  | .evStop _ => true
  | .evAddrTx _ => true
  | .evBusErr _ => true
  | .evOther _ => true
  | .evReserved7 _ => true

end Sys2Proof
end

