-- ==== Sys2Proof/Decode.lean ====
section
/-! DEFINITION. The decoder and the encoder (30_encoding.md). A CMD is one byte, an EVT word has 11 bits, and the port a
value arrives on says which it is (R50). -/

namespace Sys2Proof

/-- The decoding of a command byte, total over the 256 values (30_encoding.md R51). -/
def decodeCmd (c : Byte) : Instr :=
  match c.toNat with
  | 0x00 => .cmdNone
  | 0x01 => .cmdBlink
  | 0x02 => .cmdBoot
  | 0x03 => .cmdKey03
  | 0x04 => .cmdKey04
  | 0x05 => .cmdKey05
  | 0x06 => .cmdKey06
  | 0x07 => .cmdKey07
  | 0x08 => .cmdKey08
  | 0x09 => .cmdKey09
  | 0x0A => .cmdKey0A
  | 0x0B => .cmdKey0B
  | 0x0C => .cmdKey0C
  | 0x0D => .cmdKey0D
  | 0x0E => .cmdLkey0E
  | 0x0F => .cmdLkey0F
  | _ => .cmdIgn c

/-- w[10:8], the class of an event word (30_encoding.md R54). -/
def evtClassBits (w : EvtWord) : BitVec 3 := w.extractLsb' 8 3

/-- w[7:0], the payload of an event word (R54). -/
def evtPayload (w : EvtWord) : Byte := w.extractLsb' 0 8

/-- The decoding of an event word, total over the 2048 values (30_encoding.md R55, R57). -/
def decodeEvt (w : EvtWord) : Instr :=
  match (evtClassBits w).toNat with
  | 0 => .evAddrRx (evtPayload w)
  | 1 => .evDataRx (evtPayload w)
  | 2 => .evDataNack (evtPayload w)
  | 3 => .evStop (evtPayload w)
  | 4 => .evAddrTx (evtPayload w)
  | 5 => .evBusErr (evtPayload w)
  | 6 => .evOther (evtPayload w)
  | _ => .evReserved7 (evtPayload w)

/-- The two encoded formats (30_encoding.md R50). -/
inductive Format where
  | cmd | evt
  deriving DecidableEq, Repr

/-- Why bytes are no instruction: CMD is one byte and EVT two, and an EVT word has 11 bits. -/
inductive DecodeError where
  | cmdLength (n : Nat)
  | evtLength (n : Nat)
  | evtHighBits (b : Byte)
  deriving DecidableEq, Repr

/-- An encoded instruction: a command byte or an event word. -/
inductive Encoded where
  | cmd (c : Byte)
  | evt (w : EvtWord)
  deriving DecidableEq, Repr

/-- The event word that two bytes carry, the low one first. DESIGN CHOICE (log 15): EVT_IN is an 11-bit port, and the spec
gives it no layout in bytes. -/
def evtOfBytes (lo hi : Byte) : EvtWord := hi.extractLsb' 0 3 ++ lo

/-- The decoder on any bytes of a format. -/
def decode (f : Format) (bs : List Byte) : Except DecodeError Instr :=
  match f with
  | .cmd =>
    match bs with
    | [c] => .ok (decodeCmd c)
    | _ => .error (.cmdLength bs.length)
  | .evt =>
    match bs with
    | [lo, hi] => if hi.extractLsb' 3 5 = 0#5 then .ok (decodeEvt (evtOfBytes lo hi)) else .error (.evtHighBits hi)
    | _ => .error (.evtLength bs.length)

/-- The event word of a class and a payload (30_encoding.md R54). -/
def evtWordOf (cls : BitVec 3) (payload : Byte) : EvtWord := cls ++ payload

/-- The encoder, from the tables of 30_encoding.md R51 and R55. -/
def encodeWord : Instr → Encoded
  | .cmdNone => .cmd 0x00#8
  | .cmdBlink => .cmd 0x01#8
  | .cmdBoot => .cmd 0x02#8
  | .cmdKey03 => .cmd 0x03#8
  | .cmdKey04 => .cmd 0x04#8
  | .cmdKey05 => .cmd 0x05#8
  | .cmdKey06 => .cmd 0x06#8
  | .cmdKey07 => .cmd 0x07#8
  | .cmdKey08 => .cmd 0x08#8
  | .cmdKey09 => .cmd 0x09#8
  | .cmdKey0A => .cmd 0x0A#8
  | .cmdKey0B => .cmd 0x0B#8
  | .cmdKey0C => .cmd 0x0C#8
  | .cmdKey0D => .cmd 0x0D#8
  | .cmdLkey0E => .cmd 0x0E#8
  | .cmdLkey0F => .cmd 0x0F#8
  | .cmdIgn c => .cmd c
  | .evAddrRx p => .evt (evtWordOf 0b000#3 p)
  | .evDataRx p => .evt (evtWordOf 0b001#3 p)
  | .evDataNack p => .evt (evtWordOf 0b010#3 p)
  | .evStop p => .evt (evtWordOf 0b011#3 p)
  | .evAddrTx p => .evt (evtWordOf 0b100#3 p)
  | .evBusErr p => .evt (evtWordOf 0b101#3 p)
  | .evOther p => .evt (evtWordOf 0b110#3 p)
  | .evReserved7 p => .evt (evtWordOf 0b111#3 p)

/-- The format an encoded instruction has. -/
def encodedFormat : Encoded → Format
  | .cmd _ => .cmd
  | .evt _ => .evt

/-- The bytes of an encoded instruction, as `decode` reads them. -/
def encodedBytes : Encoded → List Byte
  | .cmd c => [c]
  | .evt w => [evtPayload w, 0#5 ++ evtClassBits w]

/-- The format and the bytes of an instruction. -/
def encode (i : Instr) : Format × List Byte := (encodedFormat (encodeWord i), encodedBytes (encodeWord i))

/-- What the decoder reads from a table row's word: rows of up to 8 bits are CMD, rows of up to 16 bits (11 in the table,
two whole bytes) are EVT. -/
def decodeTableWord (nbits w : Nat) : Option Instr :=
  if w ≥ 2 ^ nbits then none
  else if nbits ≤ 8 then (decode .cmd [BitVec.ofNat 8 w]).toOption
  else if nbits ≤ 16 then (decode .evt [BitVec.ofNat 8 w, BitVec.ofNat 8 (w / 256)]).toOption
  else none

/-- The event word of a bit-level reading of the same number (its low 11 bits). -/
def evtWordOfNat (w : Nat) : EvtWord := BitVec.ofNat 11 w

/-- The class of a command, as the bit tests of 30_encoding.md R52 name it. -/
inductive CmdClass where
  | none | blink | boot | key | lkey | ign
  deriving DecidableEq, Repr

/-- The same decoding as bit tests (30_encoding.md R52). -/
def cmdClassByBits (c : Byte) : CmdClass :=
  if c.extractLsb' 4 4 ≠ 0b0000#4 then .ign
  else if c.extractLsb' 0 4 = 0x0#4 then .none
  else if c.extractLsb' 0 4 = 0x1#4 then .blink
  else if c.extractLsb' 0 4 = 0x2#4 then .boot
  else if c.extractLsb' 1 3 = 0b111#3 then .lkey
  else .key

/-- The class of a decoded command (none of an event). -/
def cmdClassOf : Instr → Option CmdClass
  | .cmdNone => some .none
  | .cmdBlink => some .blink
  | .cmdBoot => some .boot
  | .cmdKey03 => some .key
  | .cmdKey04 => some .key
  | .cmdKey05 => some .key
  | .cmdKey06 => some .key
  | .cmdKey07 => some .key
  | .cmdKey08 => some .key
  | .cmdKey09 => some .key
  | .cmdKey0A => some .key
  | .cmdKey0B => some .key
  | .cmdKey0C => some .key
  | .cmdKey0D => some .key
  | .cmdLkey0E => some .lkey
  | .cmdLkey0F => some .lkey
  | .cmdIgn _ => some .ign
  | .evAddrRx _ => none
  | .evDataRx _ => none
  | .evDataNack _ => none
  | .evStop _ => none
  | .evAddrTx _ => none
  | .evBusErr _ => none
  | .evOther _ => none
  | .evReserved7 _ => none

end Sys2Proof
end

