-- ==== Sys2Proof/Machine/Operands.lean ====
section
/-! DEFINITION. What the rules derive from a command, a cell index, a peripheral status or the configuration
(30_encoding.md R53; 20_memory.md R35; 40_address_lookup.md R61; 00_scope.md R6). -/

namespace Sys2Proof.Machine

/-- The command bytes that have a key: 0x03 to 0x0F (30_encoding.md R53). -/
def isKeyCommand (c : Byte) : Bool := decide (0x03 ≤ c.toNat ∧ c.toNat ≤ 0x0F)

/-- KEY_CODE[c] (30_encoding.md R53). KEY_CODE is a map from 0x03..0x0F, so no rule asks for another byte; there it is
0x00, "no key". -/
def keyCodeOf (cfg : Config) (c : Byte) : Byte :=
  if isKeyCommand c then
    if h : c.toNat - 0x03 < 13 then cfg.keyCode[c.toNat - 0x03] else 0x00#8
  else 0x00#8

/-- dur(c): PRESS_NORMAL if c ≤ 0x0D, else PRESS_LONG (30_encoding.md R53; 42_command_dispatch.md R89). -/
def durationOf (cfg : Config) (c : Byte) : Nat :=
  if c.toNat ≤ 0x0D then cfg.pressNormal else cfg.pressLong

/-- active(b) (40_address_lookup.md R61). -/
def activeIndicator (b : Byte) : Bool := b != 0x00#8 && b != 0xFF#8

/-- The PS address of cell i's indicator byte (20_memory.md R35). -/
def indAddr (cfg : Config) (i : Nat) : Nat := cfg.tableBase + i

/-- The PS address of cell i's value byte (20_memory.md R35). -/
def valAddr (cfg : Config) (i : Nat) : Nat := cfg.tableBase + cfg.nCells + i

/-- The bytes of PS the block may read (20_memory.md R35, R41). -/
def inTable (cfg : Config) (a : Nat) : Bool :=
  decide (cfg.tableBase ≤ a ∧ a < cfg.tableBase + 2 * cfg.nCells)

/-- EVENT_MAP: the class of a peripheral status, EV_OTHER unless the map names another (00_scope.md R6; 30_encoding.md R57). -/
def classify (cfg : Config) (status : Byte) : EventClass :=
  match cfg.eventMap.lookup status with
  | some c => c
  | none => .other

/-- ADDR_FORMAT applied: the peripheral setting for an address byte (00_scope.md R6). -/
def addressSetting (cfg : Config) (addr : Byte) : Nat :=
  match cfg.addrFormat with
  | .low7 => (addr.extractLsb' 0 7).toNat
  | .preShifted => (addr.extractLsb' 1 7).toNat
  | .other => Config.otherAddrFormat addr

/-- The code of an event class (30_encoding.md R55). -/
def eventClassBits : EventClass → BitVec 3
  | .addrRx => 0b000#3
  | .dataRx => 0b001#3
  | .dataNack => 0b010#3
  | .stop => 0b011#3
  | .addrTx => 0b100#3
  | .busErr => 0b101#3
  | .other => 0b110#3

/-- The event word for a raw status and a data byte (30_encoding.md R54, R56): the data byte for EV_DATA_RX and
EV_DATA_NACK, the status for EV_OTHER, and 0x00 for the classes that ignore their payload, as in R59's table
(DESIGN CHOICE, log 23). -/
def reportWord (cfg : Config) (status data : Byte) : EvtWord :=
  let cls := classify cfg status
  let payload : Byte :=
    match cls with
    | .dataRx | .dataNack => data
    | .other => status
    | .addrRx | .stop | .addrTx | .busErr => 0x00#8
  evtWordOf (eventClassBits cls) payload

/-- The LED action BLINK_PATTERN gives a count, if any (00_scope.md R6); the LED collaborator applies it. That an action is
a number is a DESIGN CHOICE (log 20). -/
def blinkAction (cfg : Config) (n : Nat) : Option Nat := cfg.blinkPattern.lookup n

/-- A positive quantity. -/
def ratioPositive (r : Ratio) : Bool := decide (0 < r.num) && decide (0 < r.den)

/-- The constraints of 00_scope.md R6, with KEY_CODE[0x07] = the usage of Keypad Enter (42_command_dispatch.md R88;
92_eei_decisions.md D23). That the usage is a field of the configuration is a DESIGN CHOICE (log 26). -/
def configOk (cfg : Config) : Bool :=
  decide (1 ≤ cfg.psAw) &&
  decide (cfg.tableBase + 2 * cfg.nCells ≤ 2 ^ cfg.psAw) &&
  decide (1 ≤ cfg.timerW) &&
  ratioPositive cfg.fTick &&
  decide (cfg.pressNormal ≤ 2 ^ cfg.timerW - 1) &&
  decide (cfg.pressLong ≤ 2 ^ cfg.timerW - 1) &&
  decide (cfg.pressNormal < cfg.pressLong) &&
  decide (cfg.releaseHold ≤ 2 ^ cfg.timerW - 1) &&
  decide (cfg.releaseHold < cfg.pressNormal) &&
  (keyCodeOf cfg 0x07#8 == cfg.keypadEnter) &&
  decide (2 ≤ cfg.blinkW) &&
  decide (2 ≤ cfg.blinkEnd) &&
  decide (cfg.blinkEnd ≤ 2 ^ cfg.blinkW - 1) &&
  cfg.blinkPattern.all (fun p => decide (2 ≤ p.1 ∧ p.1 ≤ cfg.blinkEnd)) &&
  (!cfg.sentinelBytes.isEmpty) &&
  ratioPositive cfg.wdtMin

end Sys2Proof.Machine
end

