-- ==== Sys2Proof/Machine/Ops.lean ====
section
/-! DEFINITION. The named operations over memory and registers: PS and DS (20_memory.md), output strobes (10_state.md R30),
what happens when a step is not enabled, the taking of an event, the fatal fault, and RESET. -/

namespace Sys2Proof.Machine

/-- The outcome of a move or an instruction of this machine. -/
abbrev Result := Host.Outcome State Fault Refusal

/-! ### Memory -/

/-- The two memory spaces (20_memory.md R34). -/
inductive Space where
  | ps | ds
  deriving DecidableEq, Repr

/-- What an address that a memory does not list reads as. In PS, the launch's own image, a free value (R36; log 12). In DS,
no value: nothing says what the platform keeps there (R37; log 11). -/
def unlisted : Space → Nat → Option Byte
  | .ps, a => some (Config.psImage a)
  | .ds, _ => none

/-- The byte a memory lists at an address. -/
def listedAt (a : Nat) : Memory → Option Byte
  | [] => none
  | (k, b) :: m => if k = a then some b else listedAt a m

/-- The byte at an address of a space; none where the space has no value there. -/
def readByte (sp : Space) (m : Memory) (a : Nat) : Option Byte :=
  match listedAt a m with
  | some b => some b
  | none => unlisted sp a

/-- The memory without an entry at the address. -/
def eraseAt (a : Nat) : Memory → Memory
  | [] => []
  | (k, b) :: m => if k = a then m else (k, b) :: eraseAt a m

/-- The memory with the byte listed at the address, in the rising order of addresses. -/
def insertAt (a : Nat) (b : Byte) : Memory → Memory
  | [] => [(a, b)]
  | (k, v) :: m => if a < k then (a, b) :: (k, v) :: m else if k = a then (a, b) :: m else (k, v) :: insertAt a b m

/-- A write of one byte, which keeps the canonical form. -/
def writeByte (sp : Space) (m : Memory) (a : Nat) (b : Byte) : Memory :=
  if unlisted sp a = some b then eraseAt a m else insertAt a b m

/-- The addresses rise strictly, from a lower bound on. -/
def risingFrom (lo : Nat) : Memory → Bool
  | [] => true
  | (k, _) :: m => decide (lo ≤ k) && risingFrom (k + 1) m

/-- The canonical form: rising addresses, and no entry equal to what the address reads as unlisted. -/
def Memory.wf (sp : Space) (m : Memory) : Bool :=
  risingFrom 0 m && m.all (fun c => !decide (unlisted sp c.1 = some c.2))

/-- MemRead(addr, 1) over PS: the byte of the table, or none outside the table region (20_memory.md R41). -/
def psMemRead (s : State) (a : Nat) : Option Byte :=
  if inTable s.cfg a then readByte .ps s.ps a else none

/-- MemWrite(addr, n, bytes) over DS: element j goes to addr + j (20_memory.md R42). -/
def dsMemWrite (ds : Memory) (a : Nat) : List Byte → Memory
  | [] => ds
  | b :: bs => dsMemWrite (writeByte .ds ds a b) (a + 1) bs

/-! ### Outputs and ports -/

/-- emit PORT(v) (00_scope.md R8; 10_state.md R30). -/
def emit (o : Output) (s : State) : State := { s with trace := s.trace ++ [o] }

/-- The code of STATE (10_state.md R11). -/
def execStateBits : ExecState → BitVec 2
  | .idle => 0b00#2
  | .pressing => 0b01#2
  | .releasing => 0b10#2

/-- The code of LK_PHASE (10_state.md R21). -/
def lkPhaseBits : LkPhase → BitVec 2
  | .scan => 0b00#2
  | .fetch => 0b01#2
  | .done => 0b10#2

/-- The code of RUN (10_state.md R24). -/
def runModeBits : RunMode → BitVec 2
  | .boot => 0b00#2
  | .running => 0b01#2
  | .rebooting => 0b10#2
  | .faulted => 0b11#2

/-- The code of FCAUSE (10_state.md R26). -/
def fcauseBits : FCause → BitVec 2
  | .none => 0b00#2
  | .protocol => 0b01#2

/-- ACK_EN (10_state.md R29). -/
def portAckEn (s : State) : Bool := s.rxack

/-- TX_BYTE (R29). -/
def portTxByte (s : State) : Byte := s.txdata

/-- SLAVE_ADDR, meaningful once LK_PHASE = DONE (R29). -/
def portSlaveAddr (s : State) : Byte := s.addr

/-- The peripheral's setting for SLAVE_ADDR (00_scope.md R6, ADDR_FORMAT; 40_address_lookup.md R69). -/
def slaveSetting (s : State) : Nat := addressSetting s.cfg (portSlaveAddr s)

/-- KEY_OUT (10_state.md R29). -/
def portKeyOut (s : State) : Byte := s.key

/-- FAULT = {FCAUSE, FSTATUS} (R29). -/
def portFault (s : State) : BitVec 10 := fcauseBits s.fcause ++ s.fstatus

/-- RUN_OUT (R29). -/
def portRunOut (s : State) : BitVec 2 := runModeBits s.run

/-! ### Enabling -/

/-- A step that is not enabled. In FAULTED the machine has stopped with a fault (60_exceptions.md R126, U7; log 6). Elsewhere
nothing happens: in BOOT and RUNNING the agent waits (an event stays on EVT_IN, 10_state.md R32), and in REBOOTING the
block spins (42_command_dispatch.md R87; log 5, log 7). -/
def notEnabled (s : State) : Result :=
  match s.run with
  | .faulted => .fault .protocolFault
  | .boot | .running | .rebooting => .next s

/-- An EVENT step may run: RUN = RUNNING and IE = 1 (41_bus_slave_receiver.md R71); that a word is presented is the
mover's business. -/
def eventEnabled (s : State) : Bool := decide (s.run = .running) && s.ie

/-- An EVENT step: the word is consumed, then the arm acts (41_bus_slave_receiver.md R71). -/
def takeEvent (arm : State → State) (s : State) : Result :=
  if eventEnabled s then .next (arm { s with evtIn := none }) else notEnabled s

/-- A command may be dispatched: RUN = RUNNING and STATE = IDLE (42_command_dispatch.md R84). -/
def dispatchEnabled (s : State) : Bool := decide (s.run = .running) && decide (s.state = .idle)

/-- What dispatch() returns: true, false, or it does not return (42_command_dispatch.md R84 to R103). -/
inductive DispatchReturn where
  | accepted | declined | noReturn
  deriving DecidableEq, Repr

/-- The IDLE arm of a pass around one dispatch (43_press_release_sequencer.md R112): on a true result the counter is reset
and STATE becomes PRESSING. -/
def idleArm (dispatch : State → State × DispatchReturn) (s : State) : Result :=
  if dispatchEnabled s then
    match dispatch s with
    | (t, .accepted) => .next { resetCounter t with state := .pressing }
    | (t, .declined) => .next t
    | (t, .noReturn) => .next t
  else notEnabled s

/-! ### Faults and reset -/

/-- raise Fault(PROTOCOL, S), the taking of the block's one exception (60_exceptions.md R125): the marker, FCAUSE, FSTATUS,
IE and RUN, and nothing else. There is no vector, no saved pc, no handler and no return from it (R123, R131); only RESET
leaves FAULTED. -/
def raiseProtocolFault (status : Byte) (s : State) : State :=
  { emit (.dbgMarker (s.cfg.faultMarker ++ [status])) s with
    fcause := .protocol, fstatus := status, ie := false, run := .faulted }

/-- The end of the boot sequence: LK_PHASE <- DONE, RUN <- RUNNING, IE <- 1 (40_address_lookup.md R63, R64). -/
def enterRunning (s : State) : State := { s with lkPhase := .done, run := .running, ie := true }

/-- RESET (70_reset_and_hazards.md R139). DEADLINE, TCNT, TOV, TXDATA and ADDR take free values, those of a TIMER_W-bit
register within its width (log 3). What DS holds afterwards is the platform's business (20_memory.md R37), so the model
lists nothing there (log 11). The configuration, PS, EVT_IN and the model's own fields are no registers of the block
(log 10). -/
def resetStep (s : State) : State :=
  { s with
    state := .idle
    deadline := Config.resetDeadline s.resets % 2 ^ s.cfg.timerW
    key := 0x00#8
    mbox := 0x00#8
    tcnt := Config.resetTcnt s.resets % 2 ^ s.cfg.timerW
    tov := Config.resetTov s.resets
    rxack := true
    txdata := Config.resetTxdata s.resets
    blink := 0
    lkPhase := .scan
    lkIdx := 0
    lkBest := none
    addr := Config.resetAddr s.resets
    run := .boot
    ie := false
    fcause := .none
    fstatus := 0x00#8
    ds := []
    resets := s.resets + 1 }

end Sys2Proof.Machine
end

