-- ==== Sys2Proof/Machine/Lookup.lean ====
section
/-! DEFINITION. The wear-leveled address lookup engine (40_address_lookup.md R60 to R65). -/

namespace Sys2Proof.Machine

/-- The writes of a scan of one cell whose indicator byte is b (40_address_lookup.md R62). -/
def scannedCell (b : Byte) (s : State) : State :=
  { s with
    lkBest := if activeIndicator b then some s.lkIdx else s.lkBest
    lkIdx := s.lkIdx + 1 }

/-- LK_STEP in SCAN with LK_IDX < N_CELLS (R62). -/
def lkScanCell (s : State) : Result :=
  match psMemRead s (indAddr s.cfg s.lkIdx) with
  | some b => .next (scannedCell b (emit (.psRead (indAddr s.cfg s.lkIdx)) s))
  | none => .fault .psOutsideTable

/-- LK_STEP in SCAN with LK_IDX = N_CELLS (R63). -/
def lkEndScan (s : State) : State :=
  match s.lkBest with
  | none => enterRunning { s with addr := s.cfg.defaultAddr }
  | some _ => { s with lkPhase := .fetch }

/-- LK_STEP in FETCH (R64). -/
def lkFetch (s : State) : Result :=
  match s.lkBest with
  | none => .fault .fetchWithoutCandidate
  | some i =>
    match psMemRead s (valAddr s.cfg i) with
    | some b => .next (enterRunning { emit (.psRead (valAddr s.cfg i)) s with addr := b })
    | none => .fault .psOutsideTable

/-- LK_STEP, enabled exactly when RUN = BOOT and LK_PHASE ≠ DONE (R60, R65). -/
def lkStep (s : State) : Result :=
  if s.run = .boot then
    match s.lkPhase with
    | .scan =>
      if s.lkIdx < s.cfg.nCells then lkScanCell s
      else if s.lkIdx = s.cfg.nCells then .next (lkEndScan s)
      else .fault .scanPastTable
    | .fetch => lkFetch s
    | .done => notEnabled s
  else notEnabled s

end Sys2Proof.Machine
end

