-- ==== Sys2Proof/Machine/Commands.lean ====
section
/-! DEFINITION. The commands: what dispatch() does for each (42_command_dispatch.md R84 to R103), inside the IDLE arm of a
pass (43_press_release_sequencer.md R112). The blink step that comes first in the pass is not part of a command (R110;
log 8). -/

namespace Sys2Proof.Machine

/-- dispatch of CMD_NONE (42_command_dispatch.md R85). -/
def dispatchNone (s : State) : State × DispatchReturn := (s, .declined)

/-- dispatch of CMD_BLINK (R86). -/
def dispatchBlink (s : State) : State × DispatchReturn := ({ s with blink := 1, mbox := 0x00#8 }, .declined)

/-- dispatch of CMD_BOOT, its effects in the rule's order (R87). -/
def dispatchBoot (s : State) : State × DispatchReturn :=
  let disabled := { s with ie := false }
  let written := emit (.dsWrite s.cfg.sentinelAddr s.cfg.sentinelBytes)
    { disabled with ds := dsMemWrite s.ds s.cfg.sentinelAddr s.cfg.sentinelBytes }
  ({ emit .wdtArm written with run := .rebooting }, .noReturn)

/-- dispatch of a key command c: KEY and DEADLINE are set, MBOX is not cleared (R89). -/
def dispatchKey (c : Byte) (s : State) : State × DispatchReturn :=
  ({ s with key := keyCodeOf s.cfg c, deadline := durationOf s.cfg c }, .accepted)

/-- dispatch of an ignored value (R103). -/
def dispatchIgnored (s : State) : State × DispatchReturn := ({ s with mbox := 0x00#8 }, .declined)

/-- CMD_NONE (R85). -/
def execCmdNone (s : State) : Result := idleArm dispatchNone s

/-- CMD_BLINK (R86). -/
def execCmdBlink (s : State) : Result := idleArm dispatchBlink s

/-- CMD_BOOT (R87). -/
def execCmdBoot (s : State) : Result := idleArm dispatchBoot s

/-- CMD_KEY_03 (R90). -/
def execCmdKey03 (s : State) : Result := idleArm (dispatchKey 0x03#8) s

/-- CMD_KEY_04 (R91). -/
def execCmdKey04 (s : State) : Result := idleArm (dispatchKey 0x04#8) s

/-- CMD_KEY_05 (R92). -/
def execCmdKey05 (s : State) : Result := idleArm (dispatchKey 0x05#8) s

/-- CMD_KEY_06 (R93). -/
def execCmdKey06 (s : State) : Result := idleArm (dispatchKey 0x06#8) s

/-- CMD_KEY_07 (R94). -/
def execCmdKey07 (s : State) : Result := idleArm (dispatchKey 0x07#8) s

/-- CMD_KEY_08 (R95). -/
def execCmdKey08 (s : State) : Result := idleArm (dispatchKey 0x08#8) s

/-- CMD_KEY_09 (R96). -/
def execCmdKey09 (s : State) : Result := idleArm (dispatchKey 0x09#8) s

/-- CMD_KEY_0A (R97). -/
def execCmdKey0A (s : State) : Result := idleArm (dispatchKey 0x0A#8) s

/-- CMD_KEY_0B (R98). -/
def execCmdKey0B (s : State) : Result := idleArm (dispatchKey 0x0B#8) s

/-- CMD_KEY_0C (R99). -/
def execCmdKey0C (s : State) : Result := idleArm (dispatchKey 0x0C#8) s

/-- CMD_KEY_0D (R100). -/
def execCmdKey0D (s : State) : Result := idleArm (dispatchKey 0x0D#8) s

/-- CMD_LKEY_0E (R101). -/
def execCmdLkey0E (s : State) : Result := idleArm (dispatchKey 0x0E#8) s

/-- CMD_LKEY_0F (R102). -/
def execCmdLkey0F (s : State) : Result := idleArm (dispatchKey 0x0F#8) s

/-- CMD_IGN, any byte 0x10 to 0xFF (R103). The byte itself is not used. -/
def execCmdIgn (_c : Byte) (s : State) : Result := idleArm dispatchIgnored s

end Sys2Proof.Machine
end

