-- ==== Sys2Proof/Machine/Events.lean ====
section
/-! DEFINITION. The events of the two-wire slave receiver (41_bus_slave_receiver.md R73 to R79). The payload is ignored by
every class but EV_DATA_RX, EV_OTHER and the reserved class (30_encoding.md R56). -/

namespace Sys2Proof.Machine

/-- Return to the base acknowledging state: RXACK <- 1. -/
def rearm (s : State) : State := { s with rxack := true }

/-- The store of EV_DATA_RX: an empty MBOX takes the byte, and acknowledging stops (41_bus_slave_receiver.md R74). -/
def receiveByte (b : Byte) (s : State) : State :=
  { s with mbox := if s.mbox = 0x00#8 then b else s.mbox, rxack := false }

/-- EV_ADDR_RX (R73). -/
def execEvAddrRx (_payload : Byte) (s : State) : Result := takeEvent rearm s

/-- EV_DATA_RX (R74). -/
def execEvDataRx (b : Byte) (s : State) : Result := takeEvent (receiveByte b) s

/-- EV_DATA_NACK: the byte is not stored (R75). -/
def execEvDataNack (_payload : Byte) (s : State) : Result := takeEvent rearm s

/-- EV_STOP (R76). -/
def execEvStop (_payload : Byte) (s : State) : Result := takeEvent rearm s

/-- EV_ADDR_TX: TXDATA <- 0xFF and re-arm (R77). -/
def execEvAddrTx (_payload : Byte) (s : State) : Result :=
  takeEvent (fun t => rearm { t with txdata := 0xFF#8 }) s

/-- EV_BUS_ERR: emit STOP_RECOVER and re-arm (R78). -/
def execEvBusErr (_payload : Byte) (s : State) : Result :=
  takeEvent (fun t => rearm (emit .stopRecover t)) s

/-- EV_OTHER: the fatal protocol fault with the raw status (R79). -/
def execEvOther (status : Byte) (s : State) : Result := takeEvent (raiseProtocolFault status) s

/-- Class 0b111: taken as EV_OTHER (30_encoding.md R57; R79). -/
def execEvReserved7 (status : Byte) (s : State) : Result := takeEvent (raiseProtocolFault status) s

end Sys2Proof.Machine
end

