-- ==== Sys2Proof/Machine/Dispatch.lean ====
section
/-! DEFINITION. The meaning of each instruction, one arm per constructor of Instr. -/

namespace Sys2Proof.Machine

def exec (i : Instr) (s : State) : Host.Outcome State Fault Refusal :=
  match i with
  | .cmdNone => Sys2Proof.Machine.execCmdNone s
  | .cmdBlink => Sys2Proof.Machine.execCmdBlink s
  | .cmdBoot => Sys2Proof.Machine.execCmdBoot s
  | .cmdKey03 => Sys2Proof.Machine.execCmdKey03 s
  | .cmdKey04 => Sys2Proof.Machine.execCmdKey04 s
  | .cmdKey05 => Sys2Proof.Machine.execCmdKey05 s
  | .cmdKey06 => Sys2Proof.Machine.execCmdKey06 s
  | .cmdKey07 => Sys2Proof.Machine.execCmdKey07 s
  | .cmdKey08 => Sys2Proof.Machine.execCmdKey08 s
  | .cmdKey09 => Sys2Proof.Machine.execCmdKey09 s
  | .cmdKey0A => Sys2Proof.Machine.execCmdKey0A s
  | .cmdKey0B => Sys2Proof.Machine.execCmdKey0B s
  | .cmdKey0C => Sys2Proof.Machine.execCmdKey0C s
  | .cmdKey0D => Sys2Proof.Machine.execCmdKey0D s
  | .cmdLkey0E => Sys2Proof.Machine.execCmdLkey0E s
  | .cmdLkey0F => Sys2Proof.Machine.execCmdLkey0F s
  | .cmdIgn c => Sys2Proof.Machine.execCmdIgn c s
  | .evAddrRx payload => Sys2Proof.Machine.execEvAddrRx payload s
  | .evDataRx b => Sys2Proof.Machine.execEvDataRx b s
  | .evDataNack payload => Sys2Proof.Machine.execEvDataNack payload s
  | .evStop payload => Sys2Proof.Machine.execEvStop payload s
  | .evAddrTx payload => Sys2Proof.Machine.execEvAddrTx payload s
  | .evBusErr payload => Sys2Proof.Machine.execEvBusErr payload s
  | .evOther status => Sys2Proof.Machine.execEvOther status s
  | .evReserved7 status => Sys2Proof.Machine.execEvReserved7 status s

end Sys2Proof.Machine
end

