-- ==== Sys2Proof/Machine/Sequencer.lean ====
section
/-! DEFINITION. The pass agent: the blink step (44_diagnostic_blink.md R120) and the three arms
(43_press_release_sequencer.md R110 to R114); the timer agent and the HID read (R105, R106, R119). -/

namespace Sys2Proof.Machine

/-- blink_step(), the first action of every pass (44_diagnostic_blink.md R120). -/
def blinkStep (s : State) : State :=
  if s.blink = 0 then s
  else
    let n := (s.blink + 1) % 2 ^ s.cfg.blinkW
    { emit (.blinkAt n) s with blink := if n = s.cfg.blinkEnd then 0 else n }

/-- The arm PRESSING → RELEASING (43_press_release_sequencer.md R113). -/
def pressingArm (s : State) : State :=
  if expired s then
    { resetCounter { s with key := 0x00#8 } with deadline := s.cfg.releaseHold, state := .releasing }
  else s

/-- The arm RELEASING → IDLE (R114). -/
def releasingArm (s : State) : State :=
  if expired s then { s with mbox := 0x00#8, state := .idle } else s

/-- The arm a pass runs for STATE. In IDLE it is the instruction MBOX holds (R110; 42_command_dispatch.md R84). -/
def passArm (s : State) : Result :=
  match s.state with
  | .idle => exec (decodeCmd s.mbox) s
  | .pressing => .next (pressingArm s)
  | .releasing => .next (releasingArm s)

/-- PASS (R109, R110). -/
def passStep (s : State) : Result :=
  if s.run = .running then passArm (blinkStep s) else notEnabled s

/-- TICK, enabled exactly when RUN = BOOT or RUN = RUNNING (R105). -/
def tickStep (s : State) : Result :=
  match s.run with
  | .boot | .running => .next (tickCounter s)
  | .rebooting | .faulted => notEnabled s

/-- HID_READ, enabled when RUN = RUNNING: it returns KEY and writes nothing (R119). The returned value is recorded in
`trace`. -/
def hidReadStep (s : State) : Result :=
  if s.run = .running then .next (emit (.hidReturn s.key) s) else notEnabled s

end Sys2Proof.Machine
end

