-- ==== Sys2Proof/Machine/Agents.lean ====
section
/-! DEFINITION. What each move does, and how an instruction is placed so that the next step runs it. -/

namespace Sys2Proof.Machine

/-- EVENT: the instruction that the word on EVT_IN decodes to (41_bus_slave_receiver.md R71, R72). -/
def eventStep (s : State) : Result :=
  match s.evtIn with
  | some w => exec (decodeEvt w) s
  | none => notEnabled s

/-- The peripheral presents a word. It presents one at a time and holds it until an EVENT step consumes it
(10_state.md R32; 60_exceptions.md R135, P1), so while a word stands there it presents no other (log 9). -/
def presentWord (w : EvtWord) (s : State) : State :=
  match s.evtIn with
  | none => { s with evtIn := some w }
  | some _ => s

/-- PS is programmed out of band (20_memory.md R36): not during BOOT, when PS is constant, and only at an address of PS
(log 13). -/
def programPs (a : Nat) (b : Byte) (s : State) : State :=
  if s.run ≠ .boot ∧ a < 2 ^ s.cfg.psAw then { s with ps := writeByte .ps s.ps a b } else s

/-- What a move does (00_scope.md R9). -/
def perform (m : Move) (s : State) : Result :=
  match m with
  | .reset => .next (resetStep s)
  | .lkStep => lkStep s
  | .event => eventStep s
  | .pass => passStep s
  | .tick => tickStep s
  | .hidRead => hidReadStep s
  | .present w => .next (presentWord w s)
  | .report status data => .next (presentWord (reportWord s.cfg status data) s)
  | .program a b => .next (programPs a b s)

/-- A move under a configuration that meets 00_scope.md R6; under any other it is refused. -/
def attempt (m : Move) (s : State) : Result := if configOk s.cfg then perform m s else .refused .badConfig

/-- One step: the head of the script, which the step takes off it, else a free choice (00_scope.md R9; log 4). -/
def advance (s : State) : Result :=
  match s.script with
  | m :: rest => attempt m { s with script := rest }
  | [] => attempt (Config.schedule s.clock) { s with clock := s.clock + 1 }

/-- A command placed where the next step dispatches it: MBOX holds it, the boot is over, STATE is IDLE and the next move is
a PASS (43_press_release_sequencer.md R109, R112; log 22). -/
def placeCommand (c : Byte) (s : State) : State :=
  { enterRunning s with state := .idle, mbox := c, script := .pass :: s.script }

/-- An event word placed where the next step takes it: it stands on EVT_IN, the boot is over and the next move is an EVENT
(41_bus_slave_receiver.md R71; log 22). -/
def placeEvent (w : EvtWord) (s : State) : State :=
  { enterRunning s with evtIn := some w, script := .event :: s.script }

/-- A table row's word placed by its format: up to 8 bits a command, else an event word. -/
def placeTableWord (s : State) (nbits w : Nat) : State :=
  if nbits ≤ 8 then placeCommand (BitVec.ofNat 8 w) s else placeEvent (evtWordOfNat w) s

end Sys2Proof.Machine
end

