-- ==== Sys2Proof/Machine/Step.lean ====
section
/-! DEFINITION. One step of the machine, and the placing of a table row's word for the host. -/

namespace Sys2Proof.Machine

/-- One step: the next move of the schedule (00_scope.md R9). -/
def step (s : State) : Host.Outcome State Fault Refusal := advance s

/-- The state with a table row's word placed so that the very next step runs it (log 22). -/
def State.withFetchWord (s : State) (nbits w : Nat) : State := placeTableWord s nbits w

end Sys2Proof.Machine
end

