-- ==== Sys2Proof/Machine/Script.lean ====
section
/-! DEFINITION. The script notation and its pseudo-instructions (30_encoding.md R59), as lists of moves. -/

namespace Sys2Proof.Machine

/-- `ev …`: the word is presented and taken. -/
def scriptEv (w : EvtWord) : List Move := [.present w, .event]

/-- `tick K`. -/
def scriptTick (k : Nat) : List Move := List.replicate k .tick

/-- Whether the table has an active cell (40_address_lookup.md R61, R68). -/
def anyActive (cfg : Config) (ps : Memory) : Bool :=
  (List.range cfg.nCells).any fun i => ((readByte .ps ps (indAddr cfg i)).map activeIndicator).getD false

/-- `boot`: the LK_STEPs until RUN ≠ BOOT, N_CELLS + 1 or N_CELLS + 2 of them (40_address_lookup.md R68). -/
def scriptBoot (cfg : Config) (ps : Memory) : List Move :=
  List.replicate (if anyActive cfg ps then cfg.nCells + 2 else cfg.nCells + 1) .lkStep

/-- `write B`: a master writes one byte. -/
def scriptWrite (b : Byte) : List Move :=
  scriptEv (evtWordOf 0b000#3 0x00#8) ++ scriptEv (evtWordOf 0b001#3 b) ++ scriptEv (evtWordOf 0b011#3 0x00#8)

/-- `write2 B C`: a master writes two bytes, the second not acknowledged. -/
def scriptWrite2 (b c : Byte) : List Move :=
  scriptEv (evtWordOf 0b000#3 0x00#8) ++ scriptEv (evtWordOf 0b001#3 b) ++ scriptEv (evtWordOf 0b010#3 c)

/-- `read`: a master starts a read. -/
def scriptRead : List Move := scriptEv (evtWordOf 0b100#3 0x00#8)

/-- `wait K`: K ticks, then one pass. -/
def scriptWait (k : Nat) : List Move := scriptTick k ++ [.pass]

end Sys2Proof.Machine
end

