-- ==== Sys2Proof/Safety.lean ====
section
/-! DEFINITION. The terms claims are stated in: the table image and its resolution (40_address_lookup.md R66), runs of
several moves, the invariant of the machine (10_state.md R33 and what it needs to be kept by every step), and the
operations repeated. -/

namespace Sys2Proof

open Sys2Proof.Machine

/-- The byte of PS at an address: the listed one, else the launch's own image. -/
def psByte (ps : Memory) (a : Nat) : Byte :=
  match listedAt a ps with
  | some b => b
  | none => Config.psImage a

/-- T, the launch's table image, by offset from TABLE_BASE (20_memory.md R41). -/
def tableImage (s : State) (j : Nat) : Byte := psByte s.ps (s.cfg.tableBase + j)

/-- The active cells below a bound, in index order (40_address_lookup.md R66's set A). -/
def activeCells (T : Nat → Byte) (n : Nat) : List Nat := (List.range n).filter fun i => activeIndicator (T i)

/-- resolve(T) (40_address_lookup.md R66). -/
def resolve (cfg : Config) (T : Nat → Byte) : Byte :=
  match (activeCells T cfg.nCells).max? with
  | none => cfg.defaultAddr
  | some i => T (cfg.nCells + i)

/-- Moves one after another, stopping at the first fault or refusal. -/
def runMoves : List Move → State → Result
  | [], s => .next s
  | m :: ms, s =>
    match perform m s with
    | .next t => runMoves ms t
    | .fault f => .fault f
    | .refused r => .refused r

/-- k ticks of the counter (43_press_release_sequencer.md R106). -/
def ticks : Nat → State → State
  | 0, s => s
  | k + 1, s => tickCounter (ticks k s)

/-- The blink step k times (44_diagnostic_blink.md R120). -/
def blinkSteps : Nat → State → State
  | 0, s => s
  | k + 1, s => blinkStep (blinkSteps k s)

/-- How many TICK moves a list of moves holds. -/
def tickCount (ms : List Move) : Nat := ms.count .tick

/-- The commands with the NORMAL duration and their bytes (30_encoding.md R51). -/
def normalKeys : List (Instr × Byte) :=
  [(.cmdKey03, 0x03#8), (.cmdKey04, 0x04#8), (.cmdKey05, 0x05#8), (.cmdKey06, 0x06#8), (.cmdKey07, 0x07#8),
   (.cmdKey08, 0x08#8), (.cmdKey09, 0x09#8), (.cmdKey0A, 0x0A#8), (.cmdKey0B, 0x0B#8), (.cmdKey0C, 0x0C#8),
   (.cmdKey0D, 0x0D#8)]

/-- The commands with the LONG duration and their bytes (30_encoding.md R51). -/
def longKeys : List (Instr × Byte) := [(.cmdLkey0E, 0x0E#8), (.cmdLkey0F, 0x0F#8)]

/-- The machine's invariant. The four clauses of 10_state.md R33 stand in it in every run mode, with what the other rules
say of BOOT, REBOOTING and FAULTED, the widths of the registers, the canonical form of the memories, and the constraints
of 00_scope.md R6. -/
structure Inv (s : State) : Prop where
  /-- 00_scope.md R6. -/
  config : configOk s.cfg = true
  psForm : Memory.wf .ps s.ps = true
  dsForm : Memory.wf .ds s.ds = true
  /-- 10_state.md R16. -/
  tcntWidth : s.tcnt < 2 ^ s.cfg.timerW
  /-- 10_state.md R12. -/
  deadlineWidth : s.deadline < 2 ^ s.cfg.timerW
  /-- 44_diagnostic_blink.md R120: BLINK never exceeds BLINK_END - 1 after a step. -/
  blinkBelowEnd : s.blink < s.cfg.blinkEnd
  /-- 10_state.md R22. -/
  lkIdxRange : s.lkIdx ≤ s.cfg.nCells
  /-- 10_state.md R22. -/
  lkBestScanned : ∀ i, s.lkBest = some i → i < s.lkIdx
  /-- 40_address_lookup.md R63, R64. -/
  fetchHasCandidate : s.lkPhase = .fetch → s.lkIdx = s.cfg.nCells ∧ s.lkBest ≠ none
  /-- 70_reset_and_hazards.md R141. -/
  doneScannedAll : s.lkPhase = .done → s.lkIdx = s.cfg.nCells
  /-- 10_state.md R24, 40_address_lookup.md R63, R64. -/
  bootPhase : s.run = .boot ↔ s.lkPhase ≠ .done
  /-- 10_state.md R25. -/
  eventEnable : s.ie = true ↔ s.run = .running
  /-- 60_exceptions.md R126: "no fault recorded" is FCAUSE = 0b00. -/
  faultRecorded : s.fcause = .protocol ↔ s.run = .faulted
  /-- 10_state.md R26. -/
  noFaultNoStatus : s.run ≠ .faulted → s.fstatus = 0x00#8
  /-- 10_state.md R33, I1. -/
  mailboxHeld : s.state ≠ .idle → isKeyCommand s.mbox = true
  /-- 10_state.md R33, I2. -/
  keyReleased : s.state ≠ .pressing → s.key = 0x00#8
  /-- 10_state.md R33, I3. -/
  keyPressed : s.state = .pressing → s.key = keyCodeOf s.cfg s.mbox
  /-- 42_command_dispatch.md R89. -/
  pressDeadline : s.state = .pressing → s.deadline = durationOf s.cfg s.mbox
  /-- 43_press_release_sequencer.md R113. -/
  holdDeadline : s.state = .releasing → s.deadline = s.cfg.releaseHold
  /-- 70_reset_and_hazards.md R141. -/
  bootQuiet : s.run = .boot → s.state = .idle ∧ s.mbox = 0x00#8 ∧ s.blink = 0 ∧ s.rxack = true
  /-- 42_command_dispatch.md R87. -/
  rebootHeld : s.run = .rebooting → s.state = .idle ∧ s.mbox = 0x02#8

/-- Every output but a BLINK_AT strobe. -/
def notBlinkAt : Output → Bool
  | .blinkAt _ => false
  | .stopRecover | .dbgMarker _ | .wdtArm | .dsWrite _ _ | .psRead _ | .hidReturn _ => true

/-- Two states that differ at most in BLINK and in the BLINK_AT strobes (44_diagnostic_blink.md R122). -/
def sameButBlink (s t : State) : Prop :=
  t = { s with blink := t.blink, trace := t.trace } ∧
  s.trace.filter notBlinkAt = t.trace.filter notBlinkAt

end Sys2Proof
end

