-- ==== Sys2Proof/Certificates/Slice0/Obligations.lean ====
section
/-! DEFINITION. The statements for the provers. Each docstring names the rule of spec/ it formalises. A state in them is any
state, reached by a run or not, unless a premise says otherwise; its configuration is any configuration. -/

open Sys2Proof Sys2Proof.Machine

/-! ### Decoding and encoding -/

/-- Words written out from 30_encoding.md R51 and R55 decode to what the tables say. -/
def Obligations.TableWordsDecode : Prop :=
  decodeTableWord 8 0x00 = some .cmdNone ∧ decodeTableWord 8 0x01 = some .cmdBlink ∧
  decodeTableWord 8 0x02 = some .cmdBoot ∧ decodeTableWord 8 0x0D = some .cmdKey0D ∧
  decodeTableWord 8 0x0E = some .cmdLkey0E ∧ decodeTableWord 8 0x10 = some (.cmdIgn 0x10#8) ∧
  decodeTableWord 16 0x107 = some (.evDataRx 0x07#8) ∧ decodeTableWord 16 0x255 = some (.evDataNack 0x55#8) ∧
  decodeTableWord 16 0x6F8 = some (.evOther 0xF8#8) ∧ decodeTableWord 16 0x7AB = some (.evReserved7 0xAB#8) ∧
  decodeTableWord 16 0x800 = none

/-- Decoding what a well-formed instruction encodes to gives it back (30_encoding.md R51, R54, R55). The two bytes of an
event word are the model's layout (log 15). -/
def Obligations.DecodeEncodeRoundTrip : Prop :=
  ∀ i : Instr, i.wf = true → decode (encode i).1 (encode i).2 = .ok i

/-- What the decoder accepts is exactly the encoding of a well-formed instruction: no two encodings of one instruction and
no instruction without one (30_encoding.md R50, R51, R55). The two bytes of an event word are the model's layout (log 15). -/
def Obligations.DecodedBytesAreTheEncoding : Prop :=
  ∀ (f : Format) (bs : List Byte) (i : Instr), decode f bs = .ok i → i.wf = true ∧ encode i = (f, bs)

/-- 30_encoding.md R52: the command table and the bit tests give the same class for every byte, and the bit tests' duration
classes are those of the deadline. -/
def Obligations.CommandClassByBitTests : Prop :=
  ∀ c : Byte, cmdClassOf (decodeCmd c) = some (cmdClassByBits c) ∧
    (cmdClassByBits c = .lkey ↔ c = 0x0E#8 ∨ c = 0x0F#8) ∧
    (cmdClassByBits c = .key ↔ 0x03 ≤ c.toNat ∧ c.toNat ≤ 0x0D) ∧
    ∀ cfg : Config,
      (cmdClassByBits c = .lkey → durationOf cfg c = cfg.pressLong) ∧
      (cmdClassByBits c = .key → durationOf cfg c = cfg.pressNormal)

/-- 30_encoding.md R55, R57: each class decodes to its event with the payload, and class 0b111 acts as EV_OTHER. -/
def Obligations.EventClassesDecode : Prop :=
  ∀ p : Byte,
    decodeEvt (evtWordOf 0b000#3 p) = .evAddrRx p ∧ decodeEvt (evtWordOf 0b001#3 p) = .evDataRx p ∧
    decodeEvt (evtWordOf 0b010#3 p) = .evDataNack p ∧ decodeEvt (evtWordOf 0b011#3 p) = .evStop p ∧
    decodeEvt (evtWordOf 0b100#3 p) = .evAddrTx p ∧ decodeEvt (evtWordOf 0b101#3 p) = .evBusErr p ∧
    decodeEvt (evtWordOf 0b110#3 p) = .evOther p ∧
    ∀ s : State, exec (decodeEvt (evtWordOf 0b111#3 p)) s = exec (.evOther p) s

/-- 60_exceptions.md R135 (P2 to P7), 30_encoding.md R56: what a reported status decodes to, by its class under EVENT_MAP.
That the ignored payloads are 0x00 is the model's choice (log 23), so it is not stated. -/
def Obligations.ReportedStatusDecodes : Prop :=
  ∀ (cfg : Config) (status data : Byte),
    match classify cfg status with
    | .addrRx => ∃ p, decodeEvt (reportWord cfg status data) = .evAddrRx p
    | .dataRx => decodeEvt (reportWord cfg status data) = .evDataRx data
    | .dataNack => decodeEvt (reportWord cfg status data) = .evDataNack data
    | .stop => ∃ p, decodeEvt (reportWord cfg status data) = .evStop p
    | .addrTx => ∃ p, decodeEvt (reportWord cfg status data) = .evAddrTx p
    | .busErr => ∃ p, decodeEvt (reportWord cfg status data) = .evBusErr p
    | .other => decodeEvt (reportWord cfg status data) = .evOther status

/-! ### The step -/

/-- A step is the next move of the script, or a free choice where the script is empty (00_scope.md R9; the script is the
model's own, log 4). -/
def Obligations.StepPerformsTheNextMove : Prop :=
  ∀ s : State, configOk s.cfg = true →
    (∀ m rest, s.script = m :: rest → step s = perform m { s with script := rest }) ∧
    (s.script = [] → step s = perform (Config.schedule s.clock) { s with clock := s.clock + 1 })

/-- A step runs the decoded instruction, events: when the next move is EVENT and a word stands on EVT_IN, the step is exec
of the instruction it decodes to (41_bus_slave_receiver.md R71, R72). -/
def Obligations.StepRunsPresentedEvent : Prop :=
  ∀ (s : State) (w : EvtWord) (rest : List Move),
    configOk s.cfg = true → s.script = .event :: rest → s.evtIn = some w →
    step s = exec (decodeEvt w) { s with script := rest }

/-- A step runs the decoded instruction, commands: when the next move is a PASS in RUNNING and IDLE, the step is exec of the
instruction MBOX decodes to, after the blink step (43_press_release_sequencer.md R110, R112; 42_command_dispatch.md R84). -/
def Obligations.StepRunsPendingCommand : Prop :=
  ∀ (s : State) (rest : List Move),
    configOk s.cfg = true → s.script = .pass :: rest → s.run = .running → s.state = .idle →
    step s = exec (decodeCmd s.mbox) (blinkStep { s with script := rest })

/-- 00_scope.md R6: a configuration is accepted exactly when it meets the constraints of the table (with KEY_CODE[0x07] the
Keypad Enter usage, 42_command_dispatch.md R88), and a step under any other is refused. That the usage is a field of the
configuration is the model's choice (log 26), and so is that the step makes the test (log 24). -/
def Obligations.BadConfigurationIsRefused : Prop :=
  ∀ s : State,
    (configOk s.cfg = true ↔
      (1 ≤ s.cfg.psAw ∧ s.cfg.tableBase + 2 * s.cfg.nCells ≤ 2 ^ s.cfg.psAw ∧ 1 ≤ s.cfg.timerW ∧
       (0 < s.cfg.fTick.num ∧ 0 < s.cfg.fTick.den) ∧
       s.cfg.pressNormal ≤ 2 ^ s.cfg.timerW - 1 ∧ s.cfg.pressLong ≤ 2 ^ s.cfg.timerW - 1 ∧
       s.cfg.pressNormal < s.cfg.pressLong ∧ s.cfg.releaseHold ≤ 2 ^ s.cfg.timerW - 1 ∧
       s.cfg.releaseHold < s.cfg.pressNormal ∧ s.cfg.keyCode[4] = s.cfg.keypadEnter ∧
       2 ≤ s.cfg.blinkW ∧ 2 ≤ s.cfg.blinkEnd ∧ s.cfg.blinkEnd ≤ 2 ^ s.cfg.blinkW - 1 ∧
       (∀ p ∈ s.cfg.blinkPattern, 2 ≤ p.1 ∧ p.1 ≤ s.cfg.blinkEnd) ∧ s.cfg.sentinelBytes ≠ [] ∧
       (0 < s.cfg.wdtMin.num ∧ 0 < s.cfg.wdtMin.den))) ∧
    (configOk s.cfg = false → step s = .refused .badConfig)

/-! ### Events -/

/-- 41_bus_slave_receiver.md R73, R75, R76: the three events that only re-arm, whole state. -/
def Obligations.ReArmingEventsResult : Prop :=
  ∀ (p : Byte) (s : State), s.run = .running → s.ie = true →
    exec (.evAddrRx p) s = .next { s with evtIn := none, rxack := true } ∧
    exec (.evDataNack p) s = .next { s with evtIn := none, rxack := true } ∧
    exec (.evStop p) s = .next { s with evtIn := none, rxack := true } ∧
    decodeEvt (evtWordOf 0b000#3 p) = .evAddrRx p ∧ decodeEvt (evtWordOf 0b010#3 p) = .evDataNack p ∧
    decodeEvt (evtWordOf 0b011#3 p) = .evStop p

/-- 41_bus_slave_receiver.md R74: the byte goes into an empty MBOX and is dropped at a full one; acknowledging stops. -/
def Obligations.DataReceivedResult : Prop :=
  ∀ (b : Byte) (s : State), s.run = .running → s.ie = true →
    (s.mbox = 0x00#8 → exec (.evDataRx b) s = .next { s with evtIn := none, mbox := b, rxack := false }) ∧
    (s.mbox ≠ 0x00#8 → exec (.evDataRx b) s = .next { s with evtIn := none, rxack := false }) ∧
    decodeEvt (evtWordOf 0b001#3 b) = .evDataRx b

/-- 41_bus_slave_receiver.md R77. -/
def Obligations.AddressedAsTransmitterResult : Prop :=
  ∀ (p : Byte) (s : State), s.run = .running → s.ie = true →
    exec (.evAddrTx p) s = .next { s with evtIn := none, txdata := 0xFF#8, rxack := true } ∧
    decodeEvt (evtWordOf 0b100#3 p) = .evAddrTx p

/-- 41_bus_slave_receiver.md R78. -/
def Obligations.BusErrorResult : Prop :=
  ∀ (p : Byte) (s : State), s.run = .running → s.ie = true →
    exec (.evBusErr p) s = .next { s with evtIn := none, rxack := true, trace := s.trace ++ [.stopRecover] } ∧
    decodeEvt (evtWordOf 0b101#3 p) = .evBusErr p

/-- 41_bus_slave_receiver.md R79, 60_exceptions.md R125: the fatal fault, for both classes that raise it, whole state. -/
def Obligations.ProtocolFaultIsTaken : Prop :=
  ∀ (st : Byte) (s : State), s.run = .running → s.ie = true →
    (∀ i ∈ [Instr.evOther st, Instr.evReserved7 st], exec i s = .next
      { s with
        evtIn := none, trace := s.trace ++ [.dbgMarker (s.cfg.faultMarker ++ [st])], fcause := .protocol, fstatus := st,
        ie := false, run := .faulted }) ∧
    decodeEvt (evtWordOf 0b110#3 st) = .evOther st ∧ decodeEvt (evtWordOf 0b111#3 st) = .evReserved7 st

/-- The frame of the eight events (41_bus_slave_receiver.md R80, R82, 60_exceptions.md R125): what each leaves unchanged,
all of memory included. -/
def Obligations.EventsChangeNothingElse : Prop :=
  ∀ (w : EvtWord) (s t : State), exec (decodeEvt w) s = .next t →
    t.cfg = s.cfg ∧ t.state = s.state ∧ t.deadline = s.deadline ∧ t.key = s.key ∧ t.tcnt = s.tcnt ∧ t.tov = s.tov ∧
    t.blink = s.blink ∧ t.lkPhase = s.lkPhase ∧ t.lkIdx = s.lkIdx ∧ t.lkBest = s.lkBest ∧ t.addr = s.addr ∧
    t.script = s.script ∧ t.clock = s.clock ∧ t.resets = s.resets ∧
    (∀ a, readByte .ps t.ps a = readByte .ps s.ps a) ∧ (∀ a, readByte .ds t.ds a = readByte .ds s.ds a) ∧
    ((∀ b, decodeEvt w ≠ .evDataRx b) → t.mbox = s.mbox) ∧
    ((∀ p, decodeEvt w ≠ .evAddrTx p) → t.txdata = s.txdata) ∧
    ((∀ p, decodeEvt w ≠ .evOther p ∧ decodeEvt w ≠ .evReserved7 p) →
      t.run = s.run ∧ t.ie = s.ie ∧ t.fcause = s.fcause ∧ t.fstatus = s.fstatus) ∧
    ((∃ p, decodeEvt w = .evOther p ∨ decodeEvt w = .evReserved7 p) → t.rxack = s.rxack) ∧
    ((∀ p, decodeEvt w ≠ .evOther p ∧ decodeEvt w ≠ .evReserved7 p ∧ decodeEvt w ≠ .evBusErr p) → t.trace = s.trace)

/-- 41_bus_slave_receiver.md R71, 10_state.md R32: an event that is not enabled waits. That the model then answers the
unchanged state is its own choice (log 5). -/
def Obligations.EventWaitsWhileNotEnabled : Prop :=
  ∀ (w : EvtWord) (s : State), (s.run ≠ .running ∨ s.ie = false) → s.run ≠ .faulted →
    exec (decodeEvt w) s = .next s

/-! ### Terminal modes -/

/-- 60_exceptions.md R126: in FAULTED no step of the block is enabled, and the mode is a fault; only RESET leaves it. That
the answer is the outcome `fault` is the model's reading (log 6). -/
def Obligations.FaultedModeIsAFault : Prop :=
  ∀ s : State, s.run = .faulted →
    (∀ i, exec i s = .fault .protocolFault) ∧
    (∀ m ∈ [Move.lkStep, .event, .pass, .tick, .hidRead], perform m s = .fault .protocolFault) ∧
    ∃ t, perform .reset s = .next t ∧ t.run = .boot ∧ t.fcause = .none

/-- 42_command_dispatch.md R87, 60_exceptions.md R126: in REBOOTING the block spins until RESET. That a spin is the unchanged
state is the model's reading (log 7). -/
def Obligations.RebootingSpinsUntilReset : Prop :=
  ∀ s : State, s.run = .rebooting →
    (∀ i, exec i s = .next s) ∧
    (∀ m ∈ [Move.lkStep, .event, .pass, .tick, .hidRead], perform m s = .next s) ∧
    ∃ t, perform .reset s = .next t ∧ t.run = .boot

/-- 60_exceptions.md R130: with a 0x02 to dispatch and a fatal event pending, whichever comes first wins, and the other step
finds its agent disabled. -/
def Obligations.FirstTerminalStepWins : Prop :=
  ∀ (st : Byte) (s : State), s.run = .running → s.ie = true → s.state = .idle → s.mbox = 0x02#8 →
    s.evtIn = some (evtWordOf 0b110#3 st) →
    (∃ t, perform .pass s = .next t ∧ t.run = .rebooting ∧ perform .event t = .next t) ∧
    (∃ t, perform .event s = .next t ∧ t.run = .faulted ∧ perform .pass t = .fault .protocolFault)

/-- 60_exceptions.md R124, R130: only an EVENT step raises a fault, with class 0b110 or 0b111, and it records the raw
status. -/
def Obligations.OnlyFatalEventsFault : Prop :=
  ∀ (m : Move) (s t : State), perform m s = .next t → s.run ≠ .faulted → t.run = .faulted →
    m = .event ∧ ∃ st, (s.evtIn = some (evtWordOf 0b110#3 st) ∨ s.evtIn = some (evtWordOf 0b111#3 st)) ∧
      t.fcause = .protocol ∧ t.fstatus = st ∧ t.trace = s.trace ++ [.dbgMarker (s.cfg.faultMarker ++ [st])]

/-! ### Commands -/

/-- 42_command_dispatch.md R85. -/
def Obligations.NoCommandHasNoEffect : Prop :=
  ∀ s : State, s.run = .running → s.state = .idle → exec .cmdNone s = .next s ∧ decodeCmd 0x00#8 = .cmdNone

/-- 42_command_dispatch.md R86. -/
def Obligations.BlinkCommandResult : Prop :=
  ∀ s : State, s.run = .running → s.state = .idle →
    exec .cmdBlink s = .next { s with blink := 1, mbox := 0x00#8 } ∧ decodeCmd 0x01#8 = .cmdBlink

/-- 42_command_dispatch.md R103, for every ignored byte. -/
def Obligations.IgnoredCommandResult : Prop :=
  ∀ (c : Byte) (s : State), s.run = .running → s.state = .idle →
    exec (.cmdIgn c) s = .next { s with mbox := 0x00#8 } ∧ (0x10 ≤ c.toNat → decodeCmd c = .cmdIgn c)

/-- 42_command_dispatch.md R87: the reboot command, whole state. The strobes come in the rule's order; the sentinel's bytes
stand in DS in address order, and every other byte of DS reads as before. -/
def Obligations.RebootCommandResult : Prop :=
  ∀ s : State, s.run = .running → s.state = .idle →
    ∃ t, exec .cmdBoot s = .next t ∧
      t = { s with
            ie := false, run := .rebooting, ds := t.ds,
            trace := s.trace ++ [.dsWrite s.cfg.sentinelAddr s.cfg.sentinelBytes, .wdtArm] } ∧
      (∀ j b, s.cfg.sentinelBytes[j]? = some b → readByte .ds t.ds (s.cfg.sentinelAddr + j) = some b) ∧
      (∀ a, (a < s.cfg.sentinelAddr ∨ s.cfg.sentinelAddr + s.cfg.sentinelBytes.length ≤ a) →
        readByte .ds t.ds a = readByte .ds s.ds a) ∧
      decodeCmd 0x02#8 = .cmdBoot

/-- 20_memory.md R42: MemWrite puts element j of its bytes at addr + j and leaves every other address alone, in any DS; and
it keeps the canonical form (the model's own). -/
def Obligations.MemWriteWritesExactlyItsBytes : Prop :=
  ∀ (ds : Memory) (addr : Nat) (bytes : List Byte),
    (∀ j b, bytes[j]? = some b → readByte .ds (dsMemWrite ds addr bytes) (addr + j) = some b) ∧
    (∀ a, (a < addr ∨ addr + bytes.length ≤ a) →
      readByte .ds (dsMemWrite ds addr bytes) a = readByte .ds ds a) ∧
    (Memory.wf .ds ds = true → Memory.wf .ds (dsMemWrite ds addr bytes) = true)

/-- 42_command_dispatch.md R89: what every key command does, with the IDLE arm around it. MBOX is not written. -/
def Obligations.KeyCommandsShareOneMeaning : Prop :=
  ∀ (c : Byte) (s : State), 0x03 ≤ c.toNat → c.toNat ≤ 0x0F → s.run = .running → s.state = .idle →
    exec (decodeCmd c) s = .next
      { s with
        key := keyCodeOf s.cfg c, deadline := if c.toNat ≤ 0x0D then s.cfg.pressNormal else s.cfg.pressLong,
        tcnt := 0, tov := false, state := .pressing }

/-- 42_command_dispatch.md R90 to R100, with the IDLE arm around them (43_press_release_sequencer.md R112): the whole
next state of each NORMAL key command (CMD_KEY_03 to CMD_KEY_0D), its byte, and that the press lasts at least PRESS_NORMAL + 1 ticks. -/
def Obligations.NormalKeyCommandResult : Prop :=
  ∀ ic ∈ normalKeys, ∀ s : State, s.run = .running → s.state = .idle →
    exec ic.1 s = .next
      { s with state := .pressing, key := keyCodeOf s.cfg ic.2, deadline := s.cfg.pressNormal, tcnt := 0, tov := false } ∧
    decodeCmd ic.2 = ic.1 ∧
    (configOk s.cfg = true → ∀ t, exec ic.1 s = .next t → ∀ k, k ≤ s.cfg.pressNormal → expired (ticks k t) = false)

/-- 42_command_dispatch.md R101, R102, with the IDLE arm around them (43_press_release_sequencer.md R112): the LONG key
commands, CMD_LKEY_0E and CMD_LKEY_0F. -/
def Obligations.LongKeyCommandResult : Prop :=
  ∀ ic ∈ longKeys, ∀ s : State, s.run = .running → s.state = .idle →
    exec ic.1 s = .next
      { s with state := .pressing, key := keyCodeOf s.cfg ic.2, deadline := s.cfg.pressLong, tcnt := 0, tov := false } ∧
    decodeCmd ic.2 = ic.1 ∧
    (configOk s.cfg = true → ∀ t, exec ic.1 s = .next t → ∀ k, k ≤ s.cfg.pressLong → expired (ticks k t) = false)

/-- 30_encoding.md R53: KEY_CODE[c] is entry c - 3 of the configured table, and dur(c) is PRESS_NORMAL up to 0x0D and
PRESS_LONG from 0x0E. -/
def Obligations.KeyCommandOperands : Prop :=
  ∀ (cfg : Config) (k : Fin 13),
    keyCodeOf cfg (BitVec.ofNat 8 (3 + k.val)) = cfg.keyCode[k] ∧
    durationOf cfg (BitVec.ofNat 8 (3 + k.val)) = (if k.val ≤ 10 then cfg.pressNormal else cfg.pressLong)

/-- The frame of the seventeen commands (42_command_dispatch.md R104, 43_press_release_sequencer.md R112): what each leaves
unchanged. Only CMD_BOOT stores, and only the sentinel's bytes. -/
def Obligations.CommandsChangeNothingElse : Prop :=
  ∀ (c : Byte) (s t : State), exec (decodeCmd c) s = .next t →
    t.cfg = s.cfg ∧ t.rxack = s.rxack ∧ t.txdata = s.txdata ∧ t.lkPhase = s.lkPhase ∧ t.lkIdx = s.lkIdx ∧
    t.lkBest = s.lkBest ∧ t.addr = s.addr ∧ t.fcause = s.fcause ∧ t.fstatus = s.fstatus ∧ t.evtIn = s.evtIn ∧
    t.script = s.script ∧ t.clock = s.clock ∧ t.resets = s.resets ∧
    (∀ a, readByte .ps t.ps a = readByte .ps s.ps a) ∧
    (∀ a, (c ≠ 0x02#8 ∨ a < s.cfg.sentinelAddr ∨ s.cfg.sentinelAddr + s.cfg.sentinelBytes.length ≤ a) →
      readByte .ds t.ds a = readByte .ds s.ds a) ∧
    (c ≠ 0x01#8 → t.blink = s.blink) ∧
    ((c.toNat = 0x00 ∨ c.toNat = 0x02 ∨ isKeyCommand c = true) → t.mbox = s.mbox) ∧
    (isKeyCommand c = false →
      t.state = s.state ∧ t.key = s.key ∧ t.deadline = s.deadline ∧ t.tcnt = s.tcnt ∧ t.tov = s.tov) ∧
    (c ≠ 0x02#8 → t.run = s.run ∧ t.ie = s.ie ∧ t.trace = s.trace)

/-- 42_command_dispatch.md R84: dispatch is called only in RUNNING and IDLE. That a command elsewhere answers the unchanged
state is the model's choice (log 5). -/
def Obligations.CommandWaitsOutsideIdle : Prop :=
  ∀ (c : Byte) (s : State), (s.run ≠ .running ∨ s.state ≠ .idle) → s.run ≠ .faulted →
    exec (decodeCmd c) s = .next s

/-- 42_command_dispatch.md R104: (a) dispatch accepts exactly 0x03 to 0x0F; (b) after a refusal MBOX is clear, but for 0x02;
(c) after an acceptance MBOX is unchanged; (d) only 0x01 writes BLINK, only key commands write KEY and DEADLINE; (e) no
command touches what the bus sees. -/
def Obligations.DispatchAcceptsExactlyKeyBytes : Prop :=
  ∀ s : State, s.run = .running → s.state = .idle →
    ∃ t, exec (decodeCmd s.mbox) s = .next t ∧
      (t.state = .pressing ↔ 0x03 ≤ s.mbox.toNat ∧ s.mbox.toNat ≤ 0x0F) ∧
      (t.state ≠ .pressing → s.mbox ≠ 0x02#8 → t.mbox = 0x00#8) ∧
      (t.state = .pressing → t.mbox = s.mbox) ∧
      (s.mbox ≠ 0x01#8 → t.blink = s.blink) ∧
      (t.state ≠ .pressing → t.key = s.key ∧ t.deadline = s.deadline) ∧
      t.rxack = s.rxack ∧ t.txdata = s.txdata

/-! ### The pass, the sequencer and the blink counter -/

/-- 43_press_release_sequencer.md R109, R110: a PASS is the blink step and then exactly one arm, by STATE. -/
def Obligations.PassRunsOneArmAfterTheBlinkStep : Prop :=
  ∀ s : State, s.run = .running →
    (s.state = .idle → perform .pass s = exec (decodeCmd s.mbox) (blinkStep s)) ∧
    (s.state = .pressing → perform .pass s = .next (pressingArm (blinkStep s))) ∧
    (s.state = .releasing → perform .pass s = .next (releasingArm (blinkStep s)))

/-- 43_press_release_sequencer.md R113 with R108: the arm PRESSING → RELEASING. -/
def Obligations.PressingArmResult : Prop :=
  ∀ s : State, s.run = .running → s.state = .pressing →
    ((s.deadline < s.tcnt ∨ s.tov = true) →
      perform .pass s = .next
        { blinkStep s with
          key := 0x00#8, tcnt := 0, tov := false, deadline := s.cfg.releaseHold, state := .releasing }) ∧
    (s.tcnt ≤ s.deadline → s.tov = false → perform .pass s = .next (blinkStep s))

/-- 43_press_release_sequencer.md R114 with R108: the arm RELEASING → IDLE. -/
def Obligations.ReleasingArmResult : Prop :=
  ∀ s : State, s.run = .running → s.state = .releasing →
    ((s.deadline < s.tcnt ∨ s.tov = true) →
      perform .pass s = .next { blinkStep s with mbox := 0x00#8, state := .idle }) ∧
    (s.tcnt ≤ s.deadline → s.tov = false → perform .pass s = .next (blinkStep s))

/-- 44_diagnostic_blink.md R120: the blink step, for every BLINK that a BLINK_W-bit register can advance. -/
def Obligations.BlinkStepResult : Prop :=
  ∀ s : State,
    (s.blink = 0 → blinkStep s = s) ∧
    (s.blink ≠ 0 → s.blink + 1 < 2 ^ s.cfg.blinkW → s.blink + 1 ≠ s.cfg.blinkEnd →
      blinkStep s = { s with blink := s.blink + 1, trace := s.trace ++ [.blinkAt (s.blink + 1)] }) ∧
    (s.blink ≠ 0 → s.blink + 1 < 2 ^ s.cfg.blinkW → s.blink + 1 = s.cfg.blinkEnd →
      blinkStep s = { s with blink := 0, trace := s.trace ++ [.blinkAt (s.blink + 1)] })

/-- 44_diagnostic_blink.md R121: a sequence armed at 1 emits BLINK_AT(2) to BLINK_AT(BLINK_END) in the next BLINK_END - 1
blink steps, and is then inactive. -/
def Obligations.BlinkSequenceEmitsEveryCount : Prop :=
  ∀ s : State, configOk s.cfg = true → s.blink = 1 →
    (∀ k, k < s.cfg.blinkEnd →
      (blinkSteps k s).trace = s.trace ++ (List.range k).map (fun j => Output.blinkAt (j + 2)) ∧
      (blinkSteps k s).blink = (if k + 1 = s.cfg.blinkEnd then 0 else k + 1)) ∧
    (∀ k, blinkSteps (s.cfg.blinkEnd - 1 + k) s = blinkSteps (s.cfg.blinkEnd - 1) s)

/-- 44_diagnostic_blink.md R122: the blink step writes only BLINK and emits only BLINK_AT, and BLINK cannot change anything
else: two states that differ only in BLINK (and the BLINK_AT strobes emitted) do the same under every move, but for BLINK and
BLINK_AT. -/
def Obligations.BlinkDoesNotInterfere : Prop :=
  (∀ s : State, sameButBlink s (blinkStep s)) ∧
  ∀ (m : Move) (s t : State), sameButBlink s t →
    (∀ s', perform m s = .next s' → ∃ t', perform m t = .next t' ∧ sameButBlink s' t') ∧
    (∀ f, perform m s = .fault f → perform m t = .fault f) ∧
    (∀ r, perform m s = .refused r → perform m t = .refused r)

/-! ### The timer and the key read -/

/-- 43_press_release_sequencer.md R105, R106: TICK in BOOT and RUNNING, and that a TIMER_W-bit counter stays one. -/
def Obligations.TickResult : Prop :=
  ∀ s : State, (s.run = .boot ∨ s.run = .running) → s.tcnt < 2 ^ s.cfg.timerW →
    (s.tcnt = 2 ^ s.cfg.timerW - 1 → perform .tick s = .next { s with tcnt := 0, tov := true }) ∧
    (s.tcnt ≠ 2 ^ s.cfg.timerW - 1 → perform .tick s = .next { s with tcnt := s.tcnt + 1 }) ∧
    ∃ t, perform .tick s = .next t ∧ t.tcnt < 2 ^ s.cfg.timerW

/-- 43_press_release_sequencer.md R116: k ticks after the counter reset, the state has expired exactly when k ≥ D + 1, for
every deadline a TIMER_W-bit register holds, past the overflow too. -/
def Obligations.ExpiryAfterDeadlinePlusOneTicks : Prop :=
  ∀ (s : State) (k : Nat), s.deadline ≤ 2 ^ s.cfg.timerW - 1 → s.tcnt = 0 → s.tov = false →
    (expired (ticks k s) = true ↔ s.deadline + 1 ≤ k) ∧
    (k < 2 ^ s.cfg.timerW → (ticks k s).tcnt = k ∧ (ticks k s).tov = false) ∧
    (2 ^ s.cfg.timerW ≤ k → (ticks k s).tov = true)

/-- 10_state.md R17, 70_reset_and_hazards.md R151: overflow is sticky under every number of ticks, and means expired. -/
def Obligations.OverflowStaysUntilCounterReset : Prop :=
  ∀ (s : State) (k : Nat), s.tov = true →
    (ticks k s).tov = true ∧ expired (ticks k s) = true ∧ (resetCounter (ticks k s)).tov = false

/-- 43_press_release_sequencer.md R119: HID_READ returns KEY and writes nothing. That the returned value is recorded in
`trace` is the model's choice (log 14). -/
def Obligations.HidReadReturnsKey : Prop :=
  ∀ s : State, s.run = .running →
    perform .hidRead s = .next { s with trace := s.trace ++ [.hidReturn s.key] }

/-- 40_address_lookup.md R60, R65, 43_press_release_sequencer.md R105, R109, R119, 41_bus_slave_receiver.md R71: a move whose
step is not enabled changes nothing, outside FAULTED. That it answers the unchanged state is the model's choice (log 5). -/
def Obligations.DisabledMovesChangeNothing : Prop :=
  ∀ s : State, s.run ≠ .faulted →
    ((s.run ≠ .boot ∨ s.lkPhase = .done) → perform .lkStep s = .next s) ∧
    (s.run ≠ .running → perform .pass s = .next s ∧ perform .hidRead s = .next s) ∧
    (s.run = .rebooting → perform .tick s = .next s) ∧
    ((s.run ≠ .running ∨ s.ie = false ∨ s.evtIn = none) → perform .event s = .next s)

/-! ### The lookup engine -/

/-- 40_address_lookup.md R62: one scan step, whole state. The one PS read is recorded in `trace` (the model's record, log 14),
and no strobe is emitted. -/
def Obligations.ScanStepResult : Prop :=
  ∀ s : State, s.run = .boot → s.lkPhase = .scan → s.lkIdx < s.cfg.nCells →
    perform .lkStep s = .next
      { s with
        lkBest := if tableImage s s.lkIdx ≠ 0x00#8 ∧ tableImage s s.lkIdx ≠ 0xFF#8 then some s.lkIdx else s.lkBest
        lkIdx := s.lkIdx + 1
        trace := s.trace ++ [.psRead (s.cfg.tableBase + s.lkIdx)] }

/-- 40_address_lookup.md R63: the end of the scan, with and without a candidate. -/
def Obligations.EndOfScanResult : Prop :=
  ∀ s : State, s.run = .boot → s.lkPhase = .scan → s.lkIdx = s.cfg.nCells →
    (s.lkBest = none →
      perform .lkStep s = .next { s with addr := s.cfg.defaultAddr, lkPhase := .done, run := .running, ie := true }) ∧
    (s.lkBest ≠ none → perform .lkStep s = .next { s with lkPhase := .fetch })

/-- 40_address_lookup.md R64: the winner's value byte becomes ADDR; whole state. The one PS read is recorded in `trace` (the
model's record, log 14), and no strobe is emitted. -/
def Obligations.FetchResult : Prop :=
  ∀ (s : State) (i : Nat), s.run = .boot → s.lkPhase = .fetch → s.lkBest = some i → i < s.cfg.nCells →
    perform .lkStep s = .next
      { s with
        addr := tableImage s (s.cfg.nCells + i), lkPhase := .done, run := .running, ie := true
        trace := s.trace ++ [.psRead (s.cfg.tableBase + s.cfg.nCells + i)] }

/-- 40_address_lookup.md R66, R67, R68: from the start of a boot, N_CELLS + 1 LK_STEPs (no active cell) or N_CELLS + 2 (one at
least) end it, and no fewer; ADDR is resolve(T); every indicator is read once in rising order, and then one value byte
exactly when a cell is active. That reads are recorded in `trace` is the model's choice (log 14). -/
def Obligations.LookupResolvesTheTable : Prop :=
  ∀ s : State, s.run = .boot → s.lkPhase = .scan → s.lkIdx = 0 → s.lkBest = none →
    ∃ t, runMoves (List.replicate
          (if activeCells (tableImage s) s.cfg.nCells = [] then s.cfg.nCells + 1 else s.cfg.nCells + 2) .lkStep) s
        = .next t ∧
      t = { s with
            addr := resolve s.cfg (tableImage s), lkPhase := .done, run := .running, ie := true,
            lkIdx := s.cfg.nCells, lkBest := (activeCells (tableImage s) s.cfg.nCells).max?,
            trace := s.trace ++ (List.range s.cfg.nCells).map (fun i => Output.psRead (s.cfg.tableBase + i)) ++
              (match (activeCells (tableImage s) s.cfg.nCells).max? with
               | none => []
               | some i => [.psRead (s.cfg.tableBase + s.cfg.nCells + i)]) } ∧
      ∀ k, k < (if activeCells (tableImage s) s.cfg.nCells = [] then s.cfg.nCells + 1 else s.cfg.nCells + 2) →
        ∃ u, runMoves (List.replicate k .lkStep) s = .next u ∧ u.run = .boot

/-! ### Reset and the invariant -/

/-- 70_reset_and_hazards.md R139, R140: RESET from any state writes every register R139 gives a value to that value, and
emits no strobe. What it leaves in the registers R139 calls unspecified is a free value (log 3) and is not stated, but for
their widths; that EVT_IN, PS and the configuration are kept is the model's reading (log 10). -/
def Obligations.ResetWritesEveryRegister : Prop :=
  ∀ s : State, ∃ t, perform .reset s = .next t ∧
    t.state = .idle ∧ t.mbox = 0x00#8 ∧ t.key = 0x00#8 ∧ t.blink = 0 ∧ t.rxack = true ∧ t.lkPhase = .scan ∧
    t.lkIdx = 0 ∧ t.lkBest = none ∧ t.run = .boot ∧ t.ie = false ∧ t.fcause = .none ∧ t.fstatus = 0x00#8 ∧
    t.tcnt < 2 ^ s.cfg.timerW ∧ t.deadline < 2 ^ s.cfg.timerW ∧ t.trace = s.trace ∧
    t.cfg = s.cfg ∧ t.ps = s.ps ∧ t.evtIn = s.evtIn

/-- The state after reset has the values of 70_reset_and_hazards.md R139, and every launch under a configuration that meets
R6 satisfies the invariant. The values of DEADLINE, TCNT, TOV, TXDATA and ADDR are the model's (log 2) and are not stated. -/
def Obligations.LaunchMeetsTheInvariant : Prop :=
  (∀ (cfg : Config) (ps : Memory), configOk cfg = true → Memory.wf .ps ps = true → Inv (State.launch cfg ps)) ∧
  Inv State.reset ∧
  State.reset.state = .idle ∧ State.reset.mbox = 0x00#8 ∧ State.reset.key = 0x00#8 ∧ State.reset.blink = 0 ∧
  State.reset.rxack = true ∧ State.reset.lkPhase = .scan ∧ State.reset.lkIdx = 0 ∧ State.reset.lkBest = none ∧
  State.reset.run = .boot ∧ State.reset.ie = false ∧ State.reset.fcause = .none ∧ State.reset.fstatus = 0x00#8

/-- Every step keeps the invariant, whatever move it is (10_state.md R33 and the rules `Inv` cites). -/
def Obligations.StepKeepsTheInvariant : Prop :=
  ∀ s t : State, Inv s → step s = .next t → Inv t

/-- 10_state.md R33: I1 to I4 hold in every state with RUN = RUNNING that any moves reach from a RESET, whatever the state
before it (of a configuration that meets R6, and with PS in its canonical form). -/
def Obligations.ReachableRunningStatesKeepSequencerRules : Prop :=
  ∀ (s t : State) (ms : List Move), configOk s.cfg = true → Memory.wf .ps s.ps = true →
    runMoves (.reset :: ms) s = .next t → t.run = .running →
    (t.state ≠ .idle → 0x03 ≤ t.mbox.toNat ∧ t.mbox.toNat ≤ 0x0F) ∧
    (t.state ≠ .pressing → t.key = 0x00#8) ∧
    (t.state = .pressing → t.key = keyCodeOf s.cfg t.mbox) ∧
    (t.mbox = 0x00#8 → t.state = .idle)

/-- 70_reset_and_hazards.md R141: the state in which the boot sequence ends. -/
def Obligations.BootEndsQuiet : Prop :=
  ∀ s t : State, Inv s → s.run = .boot → perform .lkStep s = .next t → t.run = .running →
    t.lkPhase = .done ∧ t.ie = true ∧ t.lkIdx = t.cfg.nCells ∧ t.state = .idle ∧ t.mbox = 0x00#8 ∧ t.key = 0x00#8 ∧
    t.blink = 0 ∧ t.rxack = true ∧ t.tcnt = s.tcnt ∧ t.tov = s.tov

/-! ### Whole-machine rules -/

/-- 20_memory.md R47, 10_state.md R15: MBOX changes only by an EV_DATA_RX into an empty slot, or by being cleared: by the
dispatch of 0x01, by the dispatch of an ignored value, on RELEASING → IDLE, or by RESET. -/
def Obligations.MailboxProtocol : Prop :=
  ∀ (m : Move) (s t : State), perform m s = .next t → t.mbox ≠ s.mbox →
    (m = .event ∧ s.mbox = 0x00#8 ∧ s.evtIn = some (evtWordOf 0b001#3 t.mbox)) ∨
    (m = .pass ∧ t.mbox = 0x00#8 ∧ s.state = .idle ∧ (s.mbox = 0x01#8 ∨ 0x10 ≤ s.mbox.toNat)) ∨
    (m = .pass ∧ t.mbox = 0x00#8 ∧ s.state = .releasing ∧ t.state = .idle ∧ (s.deadline < s.tcnt ∨ s.tov = true)) ∨
    (m = .reset ∧ t.mbox = 0x00#8)

/-- The register inventory of 10_state.md R10, with EVT_IN (R28, R32) and both memories: which move can change which piece of
state. That RESET keeps EVT_IN and PS and forgets DS is the model's choice (logs 10, 11), and so are the environment's moves
that present a word or program PS (logs 9, 13). -/
def Obligations.EachRegisterHasItsWriters : Prop :=
  ∀ (m : Move) (s t : State), perform m s = .next t →
    t.cfg = s.cfg ∧
    ((t.state ≠ s.state ∨ t.deadline ≠ s.deadline ∨ t.key ≠ s.key ∨ t.blink ≠ s.blink) → m = .pass ∨ m = .reset) ∧
    ((t.tcnt ≠ s.tcnt ∨ t.tov ≠ s.tov) → m = .tick ∨ m = .pass ∨ m = .reset) ∧
    ((t.rxack ≠ s.rxack ∨ t.txdata ≠ s.txdata ∨ t.fcause ≠ s.fcause ∨ t.fstatus ≠ s.fstatus) →
      m = .event ∨ m = .reset) ∧
    (t.mbox ≠ s.mbox → m = .event ∨ m = .pass ∨ m = .reset) ∧
    ((t.lkPhase ≠ s.lkPhase ∨ t.lkIdx ≠ s.lkIdx ∨ t.lkBest ≠ s.lkBest ∨ t.addr ≠ s.addr) →
      m = .lkStep ∨ m = .reset) ∧
    ((t.run ≠ s.run ∨ t.ie ≠ s.ie) → m = .lkStep ∨ m = .pass ∨ m = .event ∨ m = .reset) ∧
    (t.evtIn ≠ s.evtIn → m = .event ∨ (∃ w, m = .present w) ∨ (∃ st d, m = .report st d)) ∧
    (t.ps ≠ s.ps → ∃ a b, m = .program a b) ∧
    (t.ds ≠ s.ds → m = .pass ∨ m = .reset)

/-- 20_memory.md R34, R36, R37: the block never writes PS, PS is constant while RUN = BOOT whatever happens, and the block
writes DS only by dispatching 0x02. That PS may be programmed in every other mode, and that a RESET forgets DS, are the model's
choices (logs 13, 11). -/
def Obligations.MemoriesAreWrittenOnlyAsStated : Prop :=
  ∀ (m : Move) (s t : State), perform m s = .next t →
    ((∀ a b, m ≠ .program a b) → t.ps = s.ps) ∧
    (s.run = .boot → t.ps = s.ps) ∧
    (m ≠ .reset → t.ds ≠ s.ds → m = .pass ∧ s.state = .idle ∧ s.mbox = 0x02#8 ∧ t.run = .rebooting)

/-- 41_bus_slave_receiver.md R81, 10_state.md R18: reject mode ends only by a re-arming event or a RESET. -/
def Obligations.RejectModeEndsOnlyByReArming : Prop :=
  ∀ (m : Move) (s t : State), perform m s = .next t → s.rxack = false → t.rxack = true →
    m = .reset ∨ (m = .event ∧ ∃ w, s.evtIn = some w ∧ t.evtIn = none ∧
      (evtClassBits w = 0b000#3 ∨ evtClassBits w = 0b010#3 ∨ evtClassBits w = 0b011#3 ∨ evtClassBits w = 0b100#3 ∨
       evtClassBits w = 0b101#3))

/-- 70_reset_and_hazards.md R144, 43_press_release_sequencer.md R117: from a fresh press of c, whatever moves follow but RESET,
MBOX holds c and the cycle is not over until dur(c) + 1 and RELEASE_HOLD + 1 ticks have passed. So a byte written before is
dropped. -/
def Obligations.BusyMailboxKeepsTheCommand : Prop :=
  ∀ (s t : State) (ms : List Move), configOk s.cfg = true → s.run = .running → s.state = .pressing →
    s.deadline = durationOf s.cfg s.mbox → isKeyCommand s.mbox = true → s.tcnt = 0 → s.tov = false →
    Move.reset ∉ ms → tickCount ms < (durationOf s.cfg s.mbox + 1) + (s.cfg.releaseHold + 1) →
    runMoves ms s = .next t → t.mbox = s.mbox ∧ t.state ≠ .idle

/-! ### Transactions -/

/-- 70_reset_and_hazards.md R145, 30_encoding.md R59: a two-byte write stores the first byte in an empty MBOX, never the
second, and leaves the receiver re-armed. -/
def Obligations.TwoByteWriteStoresTheFirstByte : Prop :=
  ∀ (b c : Byte) (s : State), s.run = .running → s.ie = true → s.evtIn = none →
    runMoves (scriptWrite2 b c) s = .next { s with mbox := if s.mbox = 0x00#8 then b else s.mbox, rxack := true }

/-- 70_reset_and_hazards.md R146, 41_bus_slave_receiver.md R77, R79: a read presents 0xFF, and a completion status that
EVENT_MAP leaves to EV_OTHER ends the block in FAULTED. -/
def Obligations.ReadThenUnmappedStatusIsFatal : Prop :=
  ∀ (st d : Byte) (s : State), s.run = .running → s.ie = true → s.evtIn = none → classify s.cfg st = .other →
    ∃ t, runMoves (scriptRead ++ [.report st d, .event]) s = .next t ∧
      t.txdata = 0xFF#8 ∧ t.run = .faulted ∧ t.fcause = .protocol ∧ t.fstatus = st ∧ t.ie = false ∧
      t.mbox = s.mbox ∧ t.key = s.key ∧ t.state = s.state
end

