-- ==== Sys2Proof/Laws/Memory.lean ====
section
/-! SUPPORT. The laws of memory: every operation keeps the canonical form, a read after a write gives the byte written, and
a write leaves every other address alone. -/

namespace Sys2Proof.Laws

open Sys2Proof.Machine

theorem risingFrom_mono {lo lo' : Nat} (m : Memory) (h : risingFrom lo m = true) (hl : lo' ≤ lo) :
    risingFrom lo' m = true := by
  cases m with
  | nil => rfl
  | cons c m => simp only [risingFrom, Bool.and_eq_true, decide_eq_true_eq] at h ⊢; exact ⟨by omega, h.2⟩

theorem listedAt_eq_none_of_rising {lo a : Nat} (m : Memory) (h : risingFrom lo m = true) (ha : a < lo) :
    listedAt a m = none := by
  induction m generalizing lo with
  | nil => rfl
  | cons c m ih =>
    simp only [risingFrom, Bool.and_eq_true, decide_eq_true_eq] at h
    have hne : c.1 ≠ a := by omega
    simp only [listedAt, if_neg hne]
    exact ih h.2 (by omega)

theorem insertAt_rising {lo a : Nat} (b : Byte) (m : Memory) (h : risingFrom lo m = true) (ha : lo ≤ a) :
    risingFrom lo (insertAt a b m) = true := by
  induction m generalizing lo with
  | nil => simp [insertAt, risingFrom, ha]
  | cons c m ih =>
    obtain ⟨k, v⟩ := c
    simp only [risingFrom, Bool.and_eq_true, decide_eq_true_eq] at h
    unfold insertAt
    split
    · simp only [risingFrom, Bool.and_eq_true, decide_eq_true_eq]; exact ⟨ha, by omega, h.2⟩
    · split
      · subst k; simp only [risingFrom, Bool.and_eq_true, decide_eq_true_eq]; exact ⟨ha, h.2⟩
      · simp only [risingFrom, Bool.and_eq_true, decide_eq_true_eq]; exact ⟨h.1, ih h.2 (by omega)⟩

theorem eraseAt_rising {lo : Nat} (a : Nat) (m : Memory) (h : risingFrom lo m = true) :
    risingFrom lo (eraseAt a m) = true := by
  induction m generalizing lo with
  | nil => rfl
  | cons c m ih =>
    obtain ⟨k, v⟩ := c
    simp only [risingFrom, Bool.and_eq_true, decide_eq_true_eq] at h
    unfold eraseAt
    split
    · exact risingFrom_mono m h.2 (by omega)
    · simp only [risingFrom, Bool.and_eq_true, decide_eq_true_eq]; exact ⟨h.1, ih h.2⟩

theorem mem_insertAt {a : Nat} {b : Byte} {m : Memory} {c : Host.Cell} (h : c ∈ insertAt a b m) :
    c = (a, b) ∨ c ∈ m := by
  induction m with
  | nil => simpa [insertAt] using h
  | cons d m ih =>
    obtain ⟨k, v⟩ := d
    unfold insertAt at h
    split at h
    · simpa using h
    · split at h
      · rcases List.mem_cons.1 h with h | h
        · exact .inl h
        · exact .inr (List.mem_cons_of_mem _ h)
      · rcases List.mem_cons.1 h with h | h
        · exact .inr (h ▸ List.mem_cons_self)
        · exact (ih h).imp id (List.mem_cons_of_mem _)

theorem mem_of_mem_eraseAt {a : Nat} {m : Memory} {c : Host.Cell} (h : c ∈ eraseAt a m) : c ∈ m := by
  induction m with
  | nil => exact h
  | cons d m ih =>
    obtain ⟨k, v⟩ := d
    unfold eraseAt at h
    split at h
    · exact List.mem_cons_of_mem _ h
    · rcases List.mem_cons.1 h with h | h
      · exact h ▸ List.mem_cons_self
      · exact List.mem_cons_of_mem _ (ih h)

/-- What the canonical form says, taken apart. -/
theorem wf_iff (sp : Space) (m : Memory) :
    Memory.wf sp m = true ↔ risingFrom 0 m = true ∧ ∀ c ∈ m, unlisted sp c.1 ≠ some c.2 := by
  simp [Memory.wf, List.all_eq_true]

/-- A byte write keeps the canonical form. -/
theorem writeByte_wf (sp : Space) (m : Memory) (a : Nat) (b : Byte) (h : Memory.wf sp m = true) :
    Memory.wf sp (writeByte sp m a b) = true := by
  rw [wf_iff] at h ⊢
  unfold writeByte
  split
  · exact ⟨eraseAt_rising a m h.1, fun c hc => h.2 c (mem_of_mem_eraseAt hc)⟩
  · next hne =>
    refine ⟨insertAt_rising b m h.1 (Nat.zero_le a), fun c hc => ?_⟩
    rcases mem_insertAt hc with rfl | hc
    · exact hne
    · exact h.2 c hc

theorem listedAt_insertAt (a c : Nat) (b : Byte) (m : Memory) :
    listedAt c (insertAt a b m) = if c = a then some b else listedAt c m := by
  induction m with
  | nil => simp only [insertAt, listedAt]; split <;> simp_all [eq_comm]
  | cons d m ih =>
    obtain ⟨k, v⟩ := d
    unfold insertAt
    split
    · simp only [listedAt]; split <;> simp_all [eq_comm]
    · split
      · next hk => subst hk; simp only [listedAt]; split <;> simp_all [eq_comm]
      · simp only [listedAt, ih]
        split
        · next hk hkc => subst hkc; simp [hk]
        · rfl

theorem listedAt_eraseAt {lo : Nat} (a c : Nat) (m : Memory) (h : risingFrom lo m = true) :
    listedAt c (eraseAt a m) = if c = a then none else listedAt c m := by
  induction m generalizing lo with
  | nil => simp [eraseAt, listedAt]
  | cons d m ih =>
    obtain ⟨k, v⟩ := d
    simp only [risingFrom, Bool.and_eq_true, decide_eq_true_eq] at h
    unfold eraseAt
    split
    · next hk =>
      subst hk
      split
      · next hc => subst hc; exact listedAt_eq_none_of_rising m h.2 (by omega)
      · next hc => simp [listedAt, Ne.symm hc]
    · next hk =>
      simp only [listedAt, ih h.2]
      split
      · next hkc => subst hkc; simp [hk]
      · rfl

/-- A read after a byte write: the byte written at its address, and what was there before at every other. -/
theorem readByte_writeByte (sp : Space) (m : Memory) (a c : Nat) (b : Byte) (h : Memory.wf sp m = true) :
    readByte sp (writeByte sp m a b) c = if c = a then some b else readByte sp m c := by
  have hr := ((wf_iff sp m).1 h).1
  by_cases hu : unlisted sp a = some b <;> by_cases hc : c = a
  · subst hc; simp [writeByte, readByte, hu, listedAt_eraseAt c c m hr]
  · simp [writeByte, readByte, hu, listedAt_eraseAt a c m hr, hc]
  · simp [writeByte, readByte, hu, listedAt_insertAt, hc]
  · simp [writeByte, readByte, hu, listedAt_insertAt, hc]

/-- In DS nothing is unlisted but without a value, so a write is an insertion. -/
theorem writeByte_ds (m : Memory) (a : Nat) (b : Byte) : writeByte .ds m a b = insertAt a b m := by
  simp [writeByte, unlisted]

theorem readByte_ds_writeByte (m : Memory) (a c : Nat) (b : Byte) :
    readByte .ds (writeByte .ds m a b) c = if c = a then some b else readByte .ds m c := by
  by_cases hc : c = a <;> simp [writeByte_ds, readByte, listedAt_insertAt, hc]

/-- The sentinel write keeps the canonical form (20_memory.md R42). -/
theorem dsMemWrite_wf (bs : List Byte) (m : Memory) (a : Nat) (h : Memory.wf .ds m = true) :
    Memory.wf .ds (dsMemWrite m a bs) = true := by
  induction bs generalizing m a with
  | nil => exact h
  | cons b bs ih => exact ih _ _ (writeByte_wf .ds m a b h)

/-- MemWrite leaves every address outside its bytes alone (20_memory.md R42). -/
theorem readByte_dsMemWrite_outside (bs : List Byte) (m : Memory) (a c : Nat) (h : c < a ∨ a + bs.length ≤ c) :
    readByte .ds (dsMemWrite m a bs) c = readByte .ds m c := by
  induction bs generalizing m a with
  | nil => rfl
  | cons b bs ih =>
    rw [List.length_cons] at h
    rw [dsMemWrite, ih _ _ (by omega), readByte_ds_writeByte, if_neg (by omega)]

/-- Element j of MemWrite's bytes lands at addr + j (20_memory.md R42). -/
theorem readByte_dsMemWrite_inside (bs : List Byte) (m : Memory) (a j : Nat) (b : Byte) (h : bs[j]? = some b) :
    readByte .ds (dsMemWrite m a bs) (a + j) = some b := by
  induction bs generalizing m a j with
  | nil => simp at h
  | cons d bs ih =>
    cases j with
    | zero =>
      rw [dsMemWrite, readByte_dsMemWrite_outside _ _ _ _ (by omega), readByte_ds_writeByte]
      simpa using h
    | succ j =>
      rw [dsMemWrite, show a + (j + 1) = (a + 1) + j by omega]
      exact ih _ _ _ (by simpa using h)

/-- PS answers every address: the listed byte or the launch's image (20_memory.md R41). -/
theorem readByte_ps (m : Memory) (a : Nat) : readByte .ps m a = some (psByte m a) := by
  cases h : listedAt a m <;> simp [readByte, psByte, unlisted, h]

/-- MemRead over PS: the table's byte inside the table region, none outside (20_memory.md R41). -/
theorem psMemRead_eq (s : State) (a : Nat) :
    psMemRead s a = if inTable s.cfg a then some (psByte s.ps a) else none := by
  simp [psMemRead, readByte_ps]

theorem empty_wf (sp : Space) : Memory.wf sp [] = true := rfl

theorem reset_ps_wf : Memory.wf .ps State.reset.ps = true := rfl

theorem reset_ds_wf : Memory.wf .ds State.reset.ds = true := rfl

end Sys2Proof.Laws
end

