-- ==== Sys2Proof/Laws/State.lean ====
section
/-! SUPPORT. One lemma per field per named update of State, so that no later proof unfolds an update. -/

namespace Sys2Proof.Laws

open Sys2Proof.Machine

@[simp] theorem emit_cfg (o : Output) (s : State) : (emit o s).cfg = s.cfg := rfl
@[simp] theorem emit_state (o : Output) (s : State) : (emit o s).state = s.state := rfl
@[simp] theorem emit_deadline (o : Output) (s : State) : (emit o s).deadline = s.deadline := rfl
@[simp] theorem emit_key (o : Output) (s : State) : (emit o s).key = s.key := rfl
@[simp] theorem emit_mbox (o : Output) (s : State) : (emit o s).mbox = s.mbox := rfl
@[simp] theorem emit_tcnt (o : Output) (s : State) : (emit o s).tcnt = s.tcnt := rfl
@[simp] theorem emit_tov (o : Output) (s : State) : (emit o s).tov = s.tov := rfl
@[simp] theorem emit_rxack (o : Output) (s : State) : (emit o s).rxack = s.rxack := rfl
@[simp] theorem emit_txdata (o : Output) (s : State) : (emit o s).txdata = s.txdata := rfl
@[simp] theorem emit_blink (o : Output) (s : State) : (emit o s).blink = s.blink := rfl
@[simp] theorem emit_lkPhase (o : Output) (s : State) : (emit o s).lkPhase = s.lkPhase := rfl
@[simp] theorem emit_lkIdx (o : Output) (s : State) : (emit o s).lkIdx = s.lkIdx := rfl
@[simp] theorem emit_lkBest (o : Output) (s : State) : (emit o s).lkBest = s.lkBest := rfl
@[simp] theorem emit_addr (o : Output) (s : State) : (emit o s).addr = s.addr := rfl
@[simp] theorem emit_run (o : Output) (s : State) : (emit o s).run = s.run := rfl
@[simp] theorem emit_ie (o : Output) (s : State) : (emit o s).ie = s.ie := rfl
@[simp] theorem emit_fcause (o : Output) (s : State) : (emit o s).fcause = s.fcause := rfl
@[simp] theorem emit_fstatus (o : Output) (s : State) : (emit o s).fstatus = s.fstatus := rfl
@[simp] theorem emit_ps (o : Output) (s : State) : (emit o s).ps = s.ps := rfl
@[simp] theorem emit_ds (o : Output) (s : State) : (emit o s).ds = s.ds := rfl
@[simp] theorem emit_evtIn (o : Output) (s : State) : (emit o s).evtIn = s.evtIn := rfl
@[simp] theorem emit_trace (o : Output) (s : State) : (emit o s).trace = s.trace ++ [o] := rfl
@[simp] theorem emit_script (o : Output) (s : State) : (emit o s).script = s.script := rfl
@[simp] theorem emit_clock (o : Output) (s : State) : (emit o s).clock = s.clock := rfl
@[simp] theorem emit_resets (o : Output) (s : State) : (emit o s).resets = s.resets := rfl

@[simp] theorem resetCounter_cfg (s : State) : (resetCounter s).cfg = s.cfg := rfl
@[simp] theorem resetCounter_state (s : State) : (resetCounter s).state = s.state := rfl
@[simp] theorem resetCounter_deadline (s : State) : (resetCounter s).deadline = s.deadline := rfl
@[simp] theorem resetCounter_key (s : State) : (resetCounter s).key = s.key := rfl
@[simp] theorem resetCounter_mbox (s : State) : (resetCounter s).mbox = s.mbox := rfl
@[simp] theorem resetCounter_tcnt (s : State) : (resetCounter s).tcnt = 0 := rfl
@[simp] theorem resetCounter_tov (s : State) : (resetCounter s).tov = false := rfl
@[simp] theorem resetCounter_rxack (s : State) : (resetCounter s).rxack = s.rxack := rfl
@[simp] theorem resetCounter_txdata (s : State) : (resetCounter s).txdata = s.txdata := rfl
@[simp] theorem resetCounter_blink (s : State) : (resetCounter s).blink = s.blink := rfl
@[simp] theorem resetCounter_lkPhase (s : State) : (resetCounter s).lkPhase = s.lkPhase := rfl
@[simp] theorem resetCounter_lkIdx (s : State) : (resetCounter s).lkIdx = s.lkIdx := rfl
@[simp] theorem resetCounter_lkBest (s : State) : (resetCounter s).lkBest = s.lkBest := rfl
@[simp] theorem resetCounter_addr (s : State) : (resetCounter s).addr = s.addr := rfl
@[simp] theorem resetCounter_run (s : State) : (resetCounter s).run = s.run := rfl
@[simp] theorem resetCounter_ie (s : State) : (resetCounter s).ie = s.ie := rfl
@[simp] theorem resetCounter_fcause (s : State) : (resetCounter s).fcause = s.fcause := rfl
@[simp] theorem resetCounter_fstatus (s : State) : (resetCounter s).fstatus = s.fstatus := rfl
@[simp] theorem resetCounter_ps (s : State) : (resetCounter s).ps = s.ps := rfl
@[simp] theorem resetCounter_ds (s : State) : (resetCounter s).ds = s.ds := rfl
@[simp] theorem resetCounter_evtIn (s : State) : (resetCounter s).evtIn = s.evtIn := rfl
@[simp] theorem resetCounter_trace (s : State) : (resetCounter s).trace = s.trace := rfl
@[simp] theorem resetCounter_script (s : State) : (resetCounter s).script = s.script := rfl
@[simp] theorem resetCounter_clock (s : State) : (resetCounter s).clock = s.clock := rfl
@[simp] theorem resetCounter_resets (s : State) : (resetCounter s).resets = s.resets := rfl

@[simp] theorem tickCounter_cfg (s : State) : (tickCounter s).cfg = s.cfg := rfl
@[simp] theorem tickCounter_state (s : State) : (tickCounter s).state = s.state := rfl
@[simp] theorem tickCounter_deadline (s : State) : (tickCounter s).deadline = s.deadline := rfl
@[simp] theorem tickCounter_key (s : State) : (tickCounter s).key = s.key := rfl
@[simp] theorem tickCounter_mbox (s : State) : (tickCounter s).mbox = s.mbox := rfl
@[simp] theorem tickCounter_tcnt (s : State) : (tickCounter s).tcnt = tickedTcnt s.cfg s.tcnt := rfl
@[simp] theorem tickCounter_tov (s : State) : (tickCounter s).tov = tickedTov s.cfg s.tcnt s.tov := rfl
@[simp] theorem tickCounter_rxack (s : State) : (tickCounter s).rxack = s.rxack := rfl
@[simp] theorem tickCounter_txdata (s : State) : (tickCounter s).txdata = s.txdata := rfl
@[simp] theorem tickCounter_blink (s : State) : (tickCounter s).blink = s.blink := rfl
@[simp] theorem tickCounter_lkPhase (s : State) : (tickCounter s).lkPhase = s.lkPhase := rfl
@[simp] theorem tickCounter_lkIdx (s : State) : (tickCounter s).lkIdx = s.lkIdx := rfl
@[simp] theorem tickCounter_lkBest (s : State) : (tickCounter s).lkBest = s.lkBest := rfl
@[simp] theorem tickCounter_addr (s : State) : (tickCounter s).addr = s.addr := rfl
@[simp] theorem tickCounter_run (s : State) : (tickCounter s).run = s.run := rfl
@[simp] theorem tickCounter_ie (s : State) : (tickCounter s).ie = s.ie := rfl
@[simp] theorem tickCounter_fcause (s : State) : (tickCounter s).fcause = s.fcause := rfl
@[simp] theorem tickCounter_fstatus (s : State) : (tickCounter s).fstatus = s.fstatus := rfl
@[simp] theorem tickCounter_ps (s : State) : (tickCounter s).ps = s.ps := rfl
@[simp] theorem tickCounter_ds (s : State) : (tickCounter s).ds = s.ds := rfl
@[simp] theorem tickCounter_evtIn (s : State) : (tickCounter s).evtIn = s.evtIn := rfl
@[simp] theorem tickCounter_trace (s : State) : (tickCounter s).trace = s.trace := rfl
@[simp] theorem tickCounter_script (s : State) : (tickCounter s).script = s.script := rfl
@[simp] theorem tickCounter_clock (s : State) : (tickCounter s).clock = s.clock := rfl
@[simp] theorem tickCounter_resets (s : State) : (tickCounter s).resets = s.resets := rfl

@[simp] theorem rearm_cfg (s : State) : (rearm s).cfg = s.cfg := rfl
@[simp] theorem rearm_state (s : State) : (rearm s).state = s.state := rfl
@[simp] theorem rearm_deadline (s : State) : (rearm s).deadline = s.deadline := rfl
@[simp] theorem rearm_key (s : State) : (rearm s).key = s.key := rfl
@[simp] theorem rearm_mbox (s : State) : (rearm s).mbox = s.mbox := rfl
@[simp] theorem rearm_tcnt (s : State) : (rearm s).tcnt = s.tcnt := rfl
@[simp] theorem rearm_tov (s : State) : (rearm s).tov = s.tov := rfl
@[simp] theorem rearm_rxack (s : State) : (rearm s).rxack = true := rfl
@[simp] theorem rearm_txdata (s : State) : (rearm s).txdata = s.txdata := rfl
@[simp] theorem rearm_blink (s : State) : (rearm s).blink = s.blink := rfl
@[simp] theorem rearm_lkPhase (s : State) : (rearm s).lkPhase = s.lkPhase := rfl
@[simp] theorem rearm_lkIdx (s : State) : (rearm s).lkIdx = s.lkIdx := rfl
@[simp] theorem rearm_lkBest (s : State) : (rearm s).lkBest = s.lkBest := rfl
@[simp] theorem rearm_addr (s : State) : (rearm s).addr = s.addr := rfl
@[simp] theorem rearm_run (s : State) : (rearm s).run = s.run := rfl
@[simp] theorem rearm_ie (s : State) : (rearm s).ie = s.ie := rfl
@[simp] theorem rearm_fcause (s : State) : (rearm s).fcause = s.fcause := rfl
@[simp] theorem rearm_fstatus (s : State) : (rearm s).fstatus = s.fstatus := rfl
@[simp] theorem rearm_ps (s : State) : (rearm s).ps = s.ps := rfl
@[simp] theorem rearm_ds (s : State) : (rearm s).ds = s.ds := rfl
@[simp] theorem rearm_evtIn (s : State) : (rearm s).evtIn = s.evtIn := rfl
@[simp] theorem rearm_trace (s : State) : (rearm s).trace = s.trace := rfl
@[simp] theorem rearm_script (s : State) : (rearm s).script = s.script := rfl
@[simp] theorem rearm_clock (s : State) : (rearm s).clock = s.clock := rfl
@[simp] theorem rearm_resets (s : State) : (rearm s).resets = s.resets := rfl

@[simp] theorem receiveByte_cfg (b : Byte) (s : State) : (receiveByte b s).cfg = s.cfg := rfl
@[simp] theorem receiveByte_state (b : Byte) (s : State) : (receiveByte b s).state = s.state := rfl
@[simp] theorem receiveByte_deadline (b : Byte) (s : State) : (receiveByte b s).deadline = s.deadline := rfl
@[simp] theorem receiveByte_key (b : Byte) (s : State) : (receiveByte b s).key = s.key := rfl
@[simp] theorem receiveByte_mbox (b : Byte) (s : State) : (receiveByte b s).mbox = if s.mbox = 0x00#8 then b else s.mbox := rfl
@[simp] theorem receiveByte_tcnt (b : Byte) (s : State) : (receiveByte b s).tcnt = s.tcnt := rfl
@[simp] theorem receiveByte_tov (b : Byte) (s : State) : (receiveByte b s).tov = s.tov := rfl
@[simp] theorem receiveByte_rxack (b : Byte) (s : State) : (receiveByte b s).rxack = false := rfl
@[simp] theorem receiveByte_txdata (b : Byte) (s : State) : (receiveByte b s).txdata = s.txdata := rfl
@[simp] theorem receiveByte_blink (b : Byte) (s : State) : (receiveByte b s).blink = s.blink := rfl
@[simp] theorem receiveByte_lkPhase (b : Byte) (s : State) : (receiveByte b s).lkPhase = s.lkPhase := rfl
@[simp] theorem receiveByte_lkIdx (b : Byte) (s : State) : (receiveByte b s).lkIdx = s.lkIdx := rfl
@[simp] theorem receiveByte_lkBest (b : Byte) (s : State) : (receiveByte b s).lkBest = s.lkBest := rfl
@[simp] theorem receiveByte_addr (b : Byte) (s : State) : (receiveByte b s).addr = s.addr := rfl
@[simp] theorem receiveByte_run (b : Byte) (s : State) : (receiveByte b s).run = s.run := rfl
@[simp] theorem receiveByte_ie (b : Byte) (s : State) : (receiveByte b s).ie = s.ie := rfl
@[simp] theorem receiveByte_fcause (b : Byte) (s : State) : (receiveByte b s).fcause = s.fcause := rfl
@[simp] theorem receiveByte_fstatus (b : Byte) (s : State) : (receiveByte b s).fstatus = s.fstatus := rfl
@[simp] theorem receiveByte_ps (b : Byte) (s : State) : (receiveByte b s).ps = s.ps := rfl
@[simp] theorem receiveByte_ds (b : Byte) (s : State) : (receiveByte b s).ds = s.ds := rfl
@[simp] theorem receiveByte_evtIn (b : Byte) (s : State) : (receiveByte b s).evtIn = s.evtIn := rfl
@[simp] theorem receiveByte_trace (b : Byte) (s : State) : (receiveByte b s).trace = s.trace := rfl
@[simp] theorem receiveByte_script (b : Byte) (s : State) : (receiveByte b s).script = s.script := rfl
@[simp] theorem receiveByte_clock (b : Byte) (s : State) : (receiveByte b s).clock = s.clock := rfl
@[simp] theorem receiveByte_resets (b : Byte) (s : State) : (receiveByte b s).resets = s.resets := rfl

@[simp] theorem raiseProtocolFault_cfg (st : Byte) (s : State) : (raiseProtocolFault st s).cfg = s.cfg := rfl
@[simp] theorem raiseProtocolFault_state (st : Byte) (s : State) : (raiseProtocolFault st s).state = s.state := rfl
@[simp] theorem raiseProtocolFault_deadline (st : Byte) (s : State) : (raiseProtocolFault st s).deadline = s.deadline := rfl
@[simp] theorem raiseProtocolFault_key (st : Byte) (s : State) : (raiseProtocolFault st s).key = s.key := rfl
@[simp] theorem raiseProtocolFault_mbox (st : Byte) (s : State) : (raiseProtocolFault st s).mbox = s.mbox := rfl
@[simp] theorem raiseProtocolFault_tcnt (st : Byte) (s : State) : (raiseProtocolFault st s).tcnt = s.tcnt := rfl
@[simp] theorem raiseProtocolFault_tov (st : Byte) (s : State) : (raiseProtocolFault st s).tov = s.tov := rfl
@[simp] theorem raiseProtocolFault_rxack (st : Byte) (s : State) : (raiseProtocolFault st s).rxack = s.rxack := rfl
@[simp] theorem raiseProtocolFault_txdata (st : Byte) (s : State) : (raiseProtocolFault st s).txdata = s.txdata := rfl
@[simp] theorem raiseProtocolFault_blink (st : Byte) (s : State) : (raiseProtocolFault st s).blink = s.blink := rfl
@[simp] theorem raiseProtocolFault_lkPhase (st : Byte) (s : State) : (raiseProtocolFault st s).lkPhase = s.lkPhase := rfl
@[simp] theorem raiseProtocolFault_lkIdx (st : Byte) (s : State) : (raiseProtocolFault st s).lkIdx = s.lkIdx := rfl
@[simp] theorem raiseProtocolFault_lkBest (st : Byte) (s : State) : (raiseProtocolFault st s).lkBest = s.lkBest := rfl
@[simp] theorem raiseProtocolFault_addr (st : Byte) (s : State) : (raiseProtocolFault st s).addr = s.addr := rfl
@[simp] theorem raiseProtocolFault_run (st : Byte) (s : State) : (raiseProtocolFault st s).run = .faulted := rfl
@[simp] theorem raiseProtocolFault_ie (st : Byte) (s : State) : (raiseProtocolFault st s).ie = false := rfl
@[simp] theorem raiseProtocolFault_fcause (st : Byte) (s : State) : (raiseProtocolFault st s).fcause = .protocol := rfl
@[simp] theorem raiseProtocolFault_fstatus (st : Byte) (s : State) : (raiseProtocolFault st s).fstatus = st := rfl
@[simp] theorem raiseProtocolFault_ps (st : Byte) (s : State) : (raiseProtocolFault st s).ps = s.ps := rfl
@[simp] theorem raiseProtocolFault_ds (st : Byte) (s : State) : (raiseProtocolFault st s).ds = s.ds := rfl
@[simp] theorem raiseProtocolFault_evtIn (st : Byte) (s : State) : (raiseProtocolFault st s).evtIn = s.evtIn := rfl
@[simp] theorem raiseProtocolFault_trace (st : Byte) (s : State) : (raiseProtocolFault st s).trace = s.trace ++ [.dbgMarker (s.cfg.faultMarker ++ [st])] := rfl
@[simp] theorem raiseProtocolFault_script (st : Byte) (s : State) : (raiseProtocolFault st s).script = s.script := rfl
@[simp] theorem raiseProtocolFault_clock (st : Byte) (s : State) : (raiseProtocolFault st s).clock = s.clock := rfl
@[simp] theorem raiseProtocolFault_resets (st : Byte) (s : State) : (raiseProtocolFault st s).resets = s.resets := rfl

@[simp] theorem enterRunning_cfg (s : State) : (enterRunning s).cfg = s.cfg := rfl
@[simp] theorem enterRunning_state (s : State) : (enterRunning s).state = s.state := rfl
@[simp] theorem enterRunning_deadline (s : State) : (enterRunning s).deadline = s.deadline := rfl
@[simp] theorem enterRunning_key (s : State) : (enterRunning s).key = s.key := rfl
@[simp] theorem enterRunning_mbox (s : State) : (enterRunning s).mbox = s.mbox := rfl
@[simp] theorem enterRunning_tcnt (s : State) : (enterRunning s).tcnt = s.tcnt := rfl
@[simp] theorem enterRunning_tov (s : State) : (enterRunning s).tov = s.tov := rfl
@[simp] theorem enterRunning_rxack (s : State) : (enterRunning s).rxack = s.rxack := rfl
@[simp] theorem enterRunning_txdata (s : State) : (enterRunning s).txdata = s.txdata := rfl
@[simp] theorem enterRunning_blink (s : State) : (enterRunning s).blink = s.blink := rfl
@[simp] theorem enterRunning_lkPhase (s : State) : (enterRunning s).lkPhase = .done := rfl
@[simp] theorem enterRunning_lkIdx (s : State) : (enterRunning s).lkIdx = s.lkIdx := rfl
@[simp] theorem enterRunning_lkBest (s : State) : (enterRunning s).lkBest = s.lkBest := rfl
@[simp] theorem enterRunning_addr (s : State) : (enterRunning s).addr = s.addr := rfl
@[simp] theorem enterRunning_run (s : State) : (enterRunning s).run = .running := rfl
@[simp] theorem enterRunning_ie (s : State) : (enterRunning s).ie = true := rfl
@[simp] theorem enterRunning_fcause (s : State) : (enterRunning s).fcause = s.fcause := rfl
@[simp] theorem enterRunning_fstatus (s : State) : (enterRunning s).fstatus = s.fstatus := rfl
@[simp] theorem enterRunning_ps (s : State) : (enterRunning s).ps = s.ps := rfl
@[simp] theorem enterRunning_ds (s : State) : (enterRunning s).ds = s.ds := rfl
@[simp] theorem enterRunning_evtIn (s : State) : (enterRunning s).evtIn = s.evtIn := rfl
@[simp] theorem enterRunning_trace (s : State) : (enterRunning s).trace = s.trace := rfl
@[simp] theorem enterRunning_script (s : State) : (enterRunning s).script = s.script := rfl
@[simp] theorem enterRunning_clock (s : State) : (enterRunning s).clock = s.clock := rfl
@[simp] theorem enterRunning_resets (s : State) : (enterRunning s).resets = s.resets := rfl

@[simp] theorem scannedCell_cfg (b : Byte) (s : State) : (scannedCell b s).cfg = s.cfg := rfl
@[simp] theorem scannedCell_state (b : Byte) (s : State) : (scannedCell b s).state = s.state := rfl
@[simp] theorem scannedCell_deadline (b : Byte) (s : State) : (scannedCell b s).deadline = s.deadline := rfl
@[simp] theorem scannedCell_key (b : Byte) (s : State) : (scannedCell b s).key = s.key := rfl
@[simp] theorem scannedCell_mbox (b : Byte) (s : State) : (scannedCell b s).mbox = s.mbox := rfl
@[simp] theorem scannedCell_tcnt (b : Byte) (s : State) : (scannedCell b s).tcnt = s.tcnt := rfl
@[simp] theorem scannedCell_tov (b : Byte) (s : State) : (scannedCell b s).tov = s.tov := rfl
@[simp] theorem scannedCell_rxack (b : Byte) (s : State) : (scannedCell b s).rxack = s.rxack := rfl
@[simp] theorem scannedCell_txdata (b : Byte) (s : State) : (scannedCell b s).txdata = s.txdata := rfl
@[simp] theorem scannedCell_blink (b : Byte) (s : State) : (scannedCell b s).blink = s.blink := rfl
@[simp] theorem scannedCell_lkPhase (b : Byte) (s : State) : (scannedCell b s).lkPhase = s.lkPhase := rfl
@[simp] theorem scannedCell_lkIdx (b : Byte) (s : State) : (scannedCell b s).lkIdx = s.lkIdx + 1 := rfl
@[simp] theorem scannedCell_lkBest (b : Byte) (s : State) : (scannedCell b s).lkBest = if activeIndicator b then some s.lkIdx else s.lkBest := rfl
@[simp] theorem scannedCell_addr (b : Byte) (s : State) : (scannedCell b s).addr = s.addr := rfl
@[simp] theorem scannedCell_run (b : Byte) (s : State) : (scannedCell b s).run = s.run := rfl
@[simp] theorem scannedCell_ie (b : Byte) (s : State) : (scannedCell b s).ie = s.ie := rfl
@[simp] theorem scannedCell_fcause (b : Byte) (s : State) : (scannedCell b s).fcause = s.fcause := rfl
@[simp] theorem scannedCell_fstatus (b : Byte) (s : State) : (scannedCell b s).fstatus = s.fstatus := rfl
@[simp] theorem scannedCell_ps (b : Byte) (s : State) : (scannedCell b s).ps = s.ps := rfl
@[simp] theorem scannedCell_ds (b : Byte) (s : State) : (scannedCell b s).ds = s.ds := rfl
@[simp] theorem scannedCell_evtIn (b : Byte) (s : State) : (scannedCell b s).evtIn = s.evtIn := rfl
@[simp] theorem scannedCell_trace (b : Byte) (s : State) : (scannedCell b s).trace = s.trace := rfl
@[simp] theorem scannedCell_script (b : Byte) (s : State) : (scannedCell b s).script = s.script := rfl
@[simp] theorem scannedCell_clock (b : Byte) (s : State) : (scannedCell b s).clock = s.clock := rfl
@[simp] theorem scannedCell_resets (b : Byte) (s : State) : (scannedCell b s).resets = s.resets := rfl

@[simp] theorem resetStep_cfg (s : State) : (resetStep s).cfg = s.cfg := rfl
@[simp] theorem resetStep_state (s : State) : (resetStep s).state = .idle := rfl
@[simp] theorem resetStep_deadline (s : State) : (resetStep s).deadline = Config.resetDeadline s.resets % 2 ^ s.cfg.timerW := rfl
@[simp] theorem resetStep_key (s : State) : (resetStep s).key = 0x00#8 := rfl
@[simp] theorem resetStep_mbox (s : State) : (resetStep s).mbox = 0x00#8 := rfl
@[simp] theorem resetStep_tcnt (s : State) : (resetStep s).tcnt = Config.resetTcnt s.resets % 2 ^ s.cfg.timerW := rfl
@[simp] theorem resetStep_tov (s : State) : (resetStep s).tov = Config.resetTov s.resets := rfl
@[simp] theorem resetStep_rxack (s : State) : (resetStep s).rxack = true := rfl
@[simp] theorem resetStep_txdata (s : State) : (resetStep s).txdata = Config.resetTxdata s.resets := rfl
@[simp] theorem resetStep_blink (s : State) : (resetStep s).blink = 0 := rfl
@[simp] theorem resetStep_lkPhase (s : State) : (resetStep s).lkPhase = .scan := rfl
@[simp] theorem resetStep_lkIdx (s : State) : (resetStep s).lkIdx = 0 := rfl
@[simp] theorem resetStep_lkBest (s : State) : (resetStep s).lkBest = none := rfl
@[simp] theorem resetStep_addr (s : State) : (resetStep s).addr = Config.resetAddr s.resets := rfl
@[simp] theorem resetStep_run (s : State) : (resetStep s).run = .boot := rfl
@[simp] theorem resetStep_ie (s : State) : (resetStep s).ie = false := rfl
@[simp] theorem resetStep_fcause (s : State) : (resetStep s).fcause = .none := rfl
@[simp] theorem resetStep_fstatus (s : State) : (resetStep s).fstatus = 0x00#8 := rfl
@[simp] theorem resetStep_ps (s : State) : (resetStep s).ps = s.ps := rfl
@[simp] theorem resetStep_ds (s : State) : (resetStep s).ds = [] := rfl
@[simp] theorem resetStep_evtIn (s : State) : (resetStep s).evtIn = s.evtIn := rfl
@[simp] theorem resetStep_trace (s : State) : (resetStep s).trace = s.trace := rfl
@[simp] theorem resetStep_script (s : State) : (resetStep s).script = s.script := rfl
@[simp] theorem resetStep_clock (s : State) : (resetStep s).clock = s.clock := rfl
@[simp] theorem resetStep_resets (s : State) : (resetStep s).resets = s.resets + 1 := rfl

end Sys2Proof.Laws
end

