-- ==== Sys2Proof/Laws/Ops.lean ====
section
/-! SUPPORT. One lemma per shared operation that says what it can do, cited instead of unfolding it. -/

namespace Sys2Proof.Laws

open Sys2Proof.Machine

/-! ### Enabling -/

theorem eventEnabled_iff (s : State) : eventEnabled s = true ↔ s.run = .running ∧ s.ie = true := by
  simp [eventEnabled]

theorem dispatchEnabled_iff (s : State) : dispatchEnabled s = true ↔ s.run = .running ∧ s.state = .idle := by
  simp [dispatchEnabled]

/-- A step that is not enabled answers the same state, or the fault of FAULTED. -/
theorem notEnabled_eq (s : State) : notEnabled s = if s.run = .faulted then .fault .protocolFault else .next s := by
  cases h : s.run <;> simp [notEnabled, h]

theorem notEnabled_next {s t : State} (h : notEnabled s = .next t) : t = s ∧ s.run ≠ .faulted := by
  rw [notEnabled_eq] at h
  split at h
  · cases h
  · next hf => exact ⟨by cases h; rfl, hf⟩

theorem notEnabled_of_not_faulted {s : State} (h : s.run ≠ .faulted) : notEnabled s = .next s := by
  rw [notEnabled_eq, if_neg h]

theorem notEnabled_of_faulted {s : State} (h : s.run = .faulted) : notEnabled s = .fault .protocolFault := by
  rw [notEnabled_eq, if_pos h]

/-! ### Taking an event -/

theorem takeEvent_enabled (arm : State → State) {s : State} (h : s.run = .running) (hi : s.ie = true) :
    takeEvent arm s = .next (arm { s with evtIn := none }) := by
  rw [takeEvent, if_pos ((eventEnabled_iff s).2 ⟨h, hi⟩)]

theorem takeEvent_disabled (arm : State → State) {s : State} (h : ¬(s.run = .running ∧ s.ie = true)) :
    takeEvent arm s = notEnabled s := by
  rw [takeEvent, if_neg (fun he => h ((eventEnabled_iff s).1 he))]

/-- What taking an event can answer: the arm's effect after the word is consumed, or the state unchanged. -/
theorem takeEvent_next {arm : State → State} {s t : State} (h : takeEvent arm s = .next t) :
    (s.run = .running ∧ s.ie = true ∧ t = arm { s with evtIn := none }) ∨
    (¬(s.run = .running ∧ s.ie = true) ∧ s.run ≠ .faulted ∧ t = s) := by
  by_cases he : s.run = .running ∧ s.ie = true
  · rw [takeEvent_enabled arm he.1 he.2] at h
    exact .inl ⟨he.1, he.2, by cases h; rfl⟩
  · rw [takeEvent_disabled arm he] at h
    exact .inr ⟨he, (notEnabled_next h).2, (notEnabled_next h).1⟩

/-! ### The IDLE arm -/

/-- The state the IDLE arm leaves after a dispatch (43_press_release_sequencer.md R112). -/
def afterDispatch (r : State × DispatchReturn) : State :=
  match r with
  | (t, .accepted) => { resetCounter t with state := .pressing }
  | (t, .declined) => t
  | (t, .noReturn) => t

theorem idleArm_enabled (d : State → State × DispatchReturn) {s : State} (h : s.run = .running)
    (hs : s.state = .idle) : idleArm d s = .next (afterDispatch (d s)) := by
  rw [idleArm, if_pos ((dispatchEnabled_iff s).2 ⟨h, hs⟩)]
  rcases d s with ⟨t, _ | _ | _⟩ <;> rfl

theorem idleArm_disabled (d : State → State × DispatchReturn) {s : State}
    (h : ¬(s.run = .running ∧ s.state = .idle)) : idleArm d s = notEnabled s := by
  rw [idleArm, if_neg (fun he => h ((dispatchEnabled_iff s).1 he))]

/-- What a command can answer: its dispatch with the IDLE arm's tail, or the state unchanged. -/
theorem idleArm_next {d : State → State × DispatchReturn} {s t : State} (h : idleArm d s = .next t) :
    (s.run = .running ∧ s.state = .idle ∧ t = afterDispatch (d s)) ∨
    (¬(s.run = .running ∧ s.state = .idle) ∧ s.run ≠ .faulted ∧ t = s) := by
  by_cases he : s.run = .running ∧ s.state = .idle
  · rw [idleArm_enabled d he.1 he.2] at h
    exact .inl ⟨he.1, he.2, by cases h; rfl⟩
  · rw [idleArm_disabled d he] at h
    exact .inr ⟨he, (notEnabled_next h).2, (notEnabled_next h).1⟩

/-! ### Expiry and the counter -/

theorem expired_iff (s : State) : expired s = true ↔ s.deadline < s.tcnt ∨ s.tov = true := by
  simp [expired]

theorem tickedTcnt_lt {cfg : Config} {n : Nat} : tickedTcnt cfg n < 2 ^ cfg.timerW := by
  have := Nat.two_pow_pos cfg.timerW
  unfold tickedTcnt
  split
  · exact this
  · exact Nat.mod_lt _ this

/-- Below the greatest value a tick adds one and leaves TOV (43_press_release_sequencer.md R106). -/
theorem tickCounter_no_wrap {s : State} (h : s.tcnt + 1 < 2 ^ s.cfg.timerW) :
    tickCounter s = { s with tcnt := s.tcnt + 1 } := by
  have hne : s.tcnt ≠ counterMax s.cfg := by unfold counterMax; omega
  simp [tickCounter, tickedTcnt, tickedTov, hne, Nat.mod_eq_of_lt h]

/-- At the greatest value a tick wraps and sets TOV (R106). -/
theorem tickCounter_wrap {s : State} (h : s.tcnt = 2 ^ s.cfg.timerW - 1) :
    tickCounter s = { s with tcnt := 0, tov := true } := by
  have he : s.tcnt = counterMax s.cfg := h
  simp [tickCounter, tickedTcnt, tickedTov, he]

/-! ### The arms of the pass -/

/-- The blink step changes at most BLINK, and emits at most one BLINK_AT (44_diagnostic_blink.md R120). -/
theorem blinkStep_cases (s : State) :
    (s.blink = 0 ∧ blinkStep s = s) ∨
    (s.blink ≠ 0 ∧ blinkStep s =
      { s with
        blink := if (s.blink + 1) % 2 ^ s.cfg.blinkW = s.cfg.blinkEnd then 0 else (s.blink + 1) % 2 ^ s.cfg.blinkW,
        trace := s.trace ++ [.blinkAt ((s.blink + 1) % 2 ^ s.cfg.blinkW)] }) := by
  by_cases h : s.blink = 0
  · exact .inl ⟨h, by simp [blinkStep, h]⟩
  · exact .inr ⟨h, by simp [blinkStep, h, emit]⟩

/-- The blink step as one update of BLINK and the trace. -/
theorem blinkStep_eq (s : State) : blinkStep s = { s with blink := (blinkStep s).blink, trace := (blinkStep s).trace } := by
  rcases blinkStep_cases s with ⟨-, h⟩ | ⟨-, h⟩ <;> rw [h]

@[simp] theorem blinkStep_cfg (s : State) : (blinkStep s).cfg = s.cfg := by rw [blinkStep_eq]
@[simp] theorem blinkStep_state (s : State) : (blinkStep s).state = s.state := by rw [blinkStep_eq]
@[simp] theorem blinkStep_deadline (s : State) : (blinkStep s).deadline = s.deadline := by rw [blinkStep_eq]
@[simp] theorem blinkStep_key (s : State) : (blinkStep s).key = s.key := by rw [blinkStep_eq]
@[simp] theorem blinkStep_mbox (s : State) : (blinkStep s).mbox = s.mbox := by rw [blinkStep_eq]
@[simp] theorem blinkStep_tcnt (s : State) : (blinkStep s).tcnt = s.tcnt := by rw [blinkStep_eq]
@[simp] theorem blinkStep_tov (s : State) : (blinkStep s).tov = s.tov := by rw [blinkStep_eq]
@[simp] theorem blinkStep_rxack (s : State) : (blinkStep s).rxack = s.rxack := by rw [blinkStep_eq]
@[simp] theorem blinkStep_txdata (s : State) : (blinkStep s).txdata = s.txdata := by rw [blinkStep_eq]
@[simp] theorem blinkStep_lkPhase (s : State) : (blinkStep s).lkPhase = s.lkPhase := by rw [blinkStep_eq]
@[simp] theorem blinkStep_lkIdx (s : State) : (blinkStep s).lkIdx = s.lkIdx := by rw [blinkStep_eq]
@[simp] theorem blinkStep_lkBest (s : State) : (blinkStep s).lkBest = s.lkBest := by rw [blinkStep_eq]
@[simp] theorem blinkStep_addr (s : State) : (blinkStep s).addr = s.addr := by rw [blinkStep_eq]
@[simp] theorem blinkStep_run (s : State) : (blinkStep s).run = s.run := by rw [blinkStep_eq]
@[simp] theorem blinkStep_ie (s : State) : (blinkStep s).ie = s.ie := by rw [blinkStep_eq]
@[simp] theorem blinkStep_fcause (s : State) : (blinkStep s).fcause = s.fcause := by rw [blinkStep_eq]
@[simp] theorem blinkStep_fstatus (s : State) : (blinkStep s).fstatus = s.fstatus := by rw [blinkStep_eq]
@[simp] theorem blinkStep_ps (s : State) : (blinkStep s).ps = s.ps := by rw [blinkStep_eq]
@[simp] theorem blinkStep_ds (s : State) : (blinkStep s).ds = s.ds := by rw [blinkStep_eq]
@[simp] theorem blinkStep_evtIn (s : State) : (blinkStep s).evtIn = s.evtIn := by rw [blinkStep_eq]
@[simp] theorem blinkStep_script (s : State) : (blinkStep s).script = s.script := by rw [blinkStep_eq]
@[simp] theorem blinkStep_clock (s : State) : (blinkStep s).clock = s.clock := by rw [blinkStep_eq]
@[simp] theorem blinkStep_resets (s : State) : (blinkStep s).resets = s.resets := by rw [blinkStep_eq]

theorem pressingArm_expired {s : State} (h : expired s = true) :
    pressingArm s =
      { s with key := 0x00#8, tcnt := 0, tov := false, deadline := s.cfg.releaseHold, state := .releasing } := by
  rw [pressingArm, if_pos h]; rfl

theorem pressingArm_not_expired {s : State} (h : expired s = false) : pressingArm s = s := by
  rw [pressingArm, if_neg (by simp [h])]

theorem releasingArm_expired {s : State} (h : expired s = true) :
    releasingArm s = { s with mbox := 0x00#8, state := .idle } := by
  rw [releasingArm, if_pos h]

theorem releasingArm_not_expired {s : State} (h : expired s = false) : releasingArm s = s := by
  rw [releasingArm, if_neg (by simp [h])]

/-! ### The lookup engine -/

theorem inTable_indAddr {cfg : Config} {i : Nat} (h : i < cfg.nCells) : inTable cfg (indAddr cfg i) = true := by
  unfold inTable indAddr
  exact decide_eq_true (by omega)

theorem inTable_valAddr {cfg : Config} {i : Nat} (h : i < cfg.nCells) : inTable cfg (valAddr cfg i) = true := by
  unfold inTable valAddr
  exact decide_eq_true (by omega)

/-- What an enabled LK_STEP can answer (40_address_lookup.md R62 to R64), with the three ways in which it stops in states no
run reaches. -/
theorem lkStep_next {s t : State} (h : lkStep s = .next t) :
    (s.run = .boot ∧ s.lkPhase = .scan ∧ s.lkIdx < s.cfg.nCells ∧
      t = scannedCell (tableImage s s.lkIdx) (emit (.psRead (indAddr s.cfg s.lkIdx)) s)) ∨
    (s.run = .boot ∧ s.lkPhase = .scan ∧ s.lkIdx = s.cfg.nCells ∧ s.lkBest = none ∧
      t = enterRunning { s with addr := s.cfg.defaultAddr }) ∨
    (s.run = .boot ∧ s.lkPhase = .scan ∧ s.lkIdx = s.cfg.nCells ∧ s.lkBest ≠ none ∧ t = { s with lkPhase := .fetch }) ∨
    (∃ i, s.run = .boot ∧ s.lkPhase = .fetch ∧ s.lkBest = some i ∧ inTable s.cfg (valAddr s.cfg i) = true ∧
      t = enterRunning { emit (.psRead (valAddr s.cfg i)) s with addr := psByte s.ps (valAddr s.cfg i) }) ∨
    ((s.run ≠ .boot ∨ s.lkPhase = .done) ∧ s.run ≠ .faulted ∧ t = s) := by
  by_cases hb : s.run = .boot
  · rw [lkStep, if_pos hb] at h
    obtain hp | hp | hp : s.lkPhase = .scan ∨ s.lkPhase = .fetch ∨ s.lkPhase = .done := by cases s.lkPhase <;> simp
    · simp only [hp] at h
      split at h
      · next hlt =>
        simp only [lkScanCell, psMemRead_eq, inTable_indAddr hlt, if_true] at h
        cases h
        exact .inl ⟨hb, hp, hlt, rfl⟩
      · split at h
        · next heq =>
          cases h
          obtain hbest | ⟨i, hbest⟩ := Option.eq_none_or_eq_some s.lkBest
          · exact .inr (.inl ⟨hb, hp, heq, hbest, by simp [lkEndScan, hbest]⟩)
          · exact .inr (.inr (.inl ⟨hb, hp, heq, by simp [hbest], by simp [lkEndScan, hbest]⟩))
        · cases h
    · simp only [hp, lkFetch] at h
      obtain hbest | ⟨i, hbest⟩ := Option.eq_none_or_eq_some s.lkBest
      · simp [hbest] at h
      · simp only [hbest, psMemRead_eq] at h
        by_cases hin : inTable s.cfg (valAddr s.cfg i) = true
        · simp only [hin, if_true] at h
          cases h
          exact .inr (.inr (.inr (.inl ⟨i, hb, hp, hbest, hin, rfl⟩)))
        · simp [hin] at h
    · simp only [hp] at h
      have := notEnabled_next h
      exact .inr (.inr (.inr (.inr ⟨.inr hp, this.2, this.1⟩)))
  · rw [lkStep, if_neg hb] at h
    have := notEnabled_next h
    exact .inr (.inr (.inr (.inr ⟨.inl hb, this.2, this.1⟩)))

/-! ### The step -/

theorem attempt_ok {s : State} (m : Move) (h : configOk s.cfg = true) : attempt m s = perform m s := if_pos h

theorem attempt_bad {s : State} (m : Move) (h : configOk s.cfg = false) : attempt m s = .refused .badConfig :=
  if_neg (by simp [h])

/-- A step is an attempt at the head of the script, or at a free choice. It changes only the model's own fields first. -/
theorem step_cases (s : State) :
    (∃ m rest, s.script = m :: rest ∧ step s = attempt m { s with script := rest }) ∨
    (s.script = [] ∧ step s = attempt (Config.schedule s.clock) { s with clock := s.clock + 1 }) := by
  cases h : s.script with
  | nil => exact .inr ⟨rfl, by simp [step, advance, h]⟩
  | cons m rest => exact .inl ⟨m, rest, rfl, by simp [step, advance, h]⟩

/-- A step that answers a next state is a move that does, from the state but for the model's own fields. -/
theorem step_next {s t : State} (h : step s = .next t) :
    configOk s.cfg = true ∧ ∃ m script clock, perform m { s with script := script, clock := clock } = .next t := by
  by_cases hc : configOk s.cfg = true
  · refine ⟨hc, ?_⟩
    rcases step_cases s with ⟨m, rest, -, e⟩ | ⟨-, e⟩ <;> rw [e, attempt_ok _ (by exact hc)] at h
    · exact ⟨m, rest, s.clock, h⟩
    · exact ⟨_, s.script, s.clock + 1, h⟩
  · rcases step_cases s with ⟨m, rest, -, e⟩ | ⟨-, e⟩ <;>
      rw [e, attempt_bad _ (by simpa using hc)] at h <;> cases h

end Sys2Proof.Laws
end

