-- ==== Sys2Proof/Laws/Exec.lean ====
section
/-! SUPPORT. What a decoded word is, and what exec does with a decoded command or event, by cases. -/

namespace Sys2Proof.Laws

open Sys2Proof.Machine

/-! ### Event words -/

theorem evtClassBits_evtWordOf (cls : BitVec 3) (p : Byte) : evtClassBits (evtWordOf cls p) = cls := by
  unfold evtClassBits evtWordOf
  exact BitVec.extractLsb'_append_eq_left

theorem evtPayload_evtWordOf (cls : BitVec 3) (p : Byte) : evtPayload (evtWordOf cls p) = p := by
  unfold evtPayload evtWordOf
  exact BitVec.extractLsb'_append_eq_right

/-- An event word is its class and its payload. -/
theorem evtWordOf_parts (w : EvtWord) : evtWordOf (evtClassBits w) (evtPayload w) = w := by
  apply BitVec.eq_of_getLsbD_eq
  intro i hi
  simp only [evtWordOf, evtClassBits, evtPayload, BitVec.getLsbD_append, BitVec.getLsbD_extractLsb']
  by_cases h : i < 8
  · simp [h]
  · have : i - 8 < 3 := by omega
    simp [h, this, show 8 + (i - 8) = i by omega]

/-- What each class decodes to (30_encoding.md R55). -/
theorem decodeEvt_evtWordOf (p : Byte) :
    decodeEvt (evtWordOf 0b000#3 p) = .evAddrRx p ∧ decodeEvt (evtWordOf 0b001#3 p) = .evDataRx p ∧
    decodeEvt (evtWordOf 0b010#3 p) = .evDataNack p ∧ decodeEvt (evtWordOf 0b011#3 p) = .evStop p ∧
    decodeEvt (evtWordOf 0b100#3 p) = .evAddrTx p ∧ decodeEvt (evtWordOf 0b101#3 p) = .evBusErr p ∧
    decodeEvt (evtWordOf 0b110#3 p) = .evOther p ∧ decodeEvt (evtWordOf 0b111#3 p) = .evReserved7 p := by
  simp [decodeEvt, evtClassBits_evtWordOf, evtPayload_evtWordOf]

/-- Every event word is of one of eight classes, and decodes by it. -/
theorem decodeEvt_cases (w : EvtWord) :
    ∃ p, (w = evtWordOf 0b000#3 p ∧ decodeEvt w = .evAddrRx p) ∨ (w = evtWordOf 0b001#3 p ∧ decodeEvt w = .evDataRx p) ∨
      (w = evtWordOf 0b010#3 p ∧ decodeEvt w = .evDataNack p) ∨ (w = evtWordOf 0b011#3 p ∧ decodeEvt w = .evStop p) ∨
      (w = evtWordOf 0b100#3 p ∧ decodeEvt w = .evAddrTx p) ∨ (w = evtWordOf 0b101#3 p ∧ decodeEvt w = .evBusErr p) ∨
      (w = evtWordOf 0b110#3 p ∧ decodeEvt w = .evOther p) ∨
      (w = evtWordOf 0b111#3 p ∧ decodeEvt w = .evReserved7 p) := by
  refine ⟨evtPayload w, ?_⟩
  have hw := evtWordOf_parts w
  have hd := decodeEvt_evtWordOf (evtPayload w)
  have hall : ∀ x : BitVec 3, x = 0#3 ∨ x = 1#3 ∨ x = 2#3 ∨ x = 3#3 ∨ x = 4#3 ∨ x = 5#3 ∨ x = 6#3 ∨ x = 7#3 := by
    decide
  rcases hall (evtClassBits w) with h | h | h | h | h | h | h | h <;> rw [h] at hw <;> rw [← hw, evtPayload_evtWordOf] <;>
    simp [hd]

/-! ### Commands -/

/-- What each command byte decodes to and does, by its class (42_command_dispatch.md R84). -/
theorem exec_decodeCmd_cases (c : Byte) :
    (c = 0x00#8 ∧ ∀ s, exec (decodeCmd c) s = idleArm dispatchNone s) ∨
    (c = 0x01#8 ∧ ∀ s, exec (decodeCmd c) s = idleArm dispatchBlink s) ∨
    (c = 0x02#8 ∧ ∀ s, exec (decodeCmd c) s = idleArm dispatchBoot s) ∨
    (isKeyCommand c = true ∧ ∀ s, exec (decodeCmd c) s = idleArm (dispatchKey c) s) ∨
    (0x10 ≤ c.toNat ∧ isKeyCommand c = false ∧ decodeCmd c = .cmdIgn c ∧
      ∀ s, exec (decodeCmd c) s = idleArm dispatchIgnored s) := by
  by_cases h : 0x10 ≤ c.toNat
  · have hd : decodeCmd c = .cmdIgn c := by
      unfold decodeCmd
      split <;> first | omega | rfl
    refine .inr (.inr (.inr (.inr ⟨h, ?_, hd, fun s => by rw [hd]; rfl⟩)))
    simp [isKeyCommand]; omega
  · have hc : c = BitVec.ofNat 8 c.toNat := by simp
    have hlt : c.toNat < 16 := by omega
    generalize c.toNat = n at hc hlt
    subst hc
    interval_cases n
    · exact .inl ⟨rfl, fun s => rfl⟩
    · exact .inr (.inl ⟨rfl, fun s => rfl⟩)
    · exact .inr (.inr (.inl ⟨rfl, fun s => rfl⟩))
    all_goals exact .inr (.inr (.inr (.inl ⟨rfl, fun s => rfl⟩)))

/-- Two facts a key command's byte gives. -/
theorem isKeyCommand_iff (c : Byte) : isKeyCommand c = true ↔ 0x03 ≤ c.toNat ∧ c.toNat ≤ 0x0F := by
  simp [isKeyCommand]

/-- KEY and DEADLINE after an accepted command, with the IDLE arm's tail (42_command_dispatch.md R89;
43_press_release_sequencer.md R112). -/
theorem afterDispatch_key (c : Byte) (s : State) :
    afterDispatch (dispatchKey c s) =
      { s with
        state := .pressing, key := keyCodeOf s.cfg c, deadline := durationOf s.cfg c, tcnt := 0, tov := false } := rfl

theorem afterDispatch_none (s : State) : afterDispatch (dispatchNone s) = s := rfl

theorem afterDispatch_blink (s : State) : afterDispatch (dispatchBlink s) = { s with blink := 1, mbox := 0x00#8 } := rfl

theorem afterDispatch_ignored (s : State) : afterDispatch (dispatchIgnored s) = { s with mbox := 0x00#8 } := rfl

/-- The reboot command's whole effect (42_command_dispatch.md R87). -/
theorem afterDispatch_boot (s : State) :
    afterDispatch (dispatchBoot s) =
      { s with
        ie := false, run := .rebooting, ds := dsMemWrite s.ds s.cfg.sentinelAddr s.cfg.sentinelBytes,
        trace := s.trace ++ [.dsWrite s.cfg.sentinelAddr s.cfg.sentinelBytes, .wdtArm] } := by
  simp [afterDispatch, dispatchBoot, emit]

/-- Outside RUNNING every instruction is a step that is not enabled (41_bus_slave_receiver.md R71; 42_command_dispatch.md
R84). -/
theorem exec_not_running (i : Instr) {s : State} (h : s.run ≠ .running) : exec i s = notEnabled s := by
  have hc : ∀ d, idleArm d s = notEnabled s := fun d => idleArm_disabled d (fun hh => h hh.1)
  have he : ∀ a, takeEvent a s = notEnabled s := fun a => takeEvent_disabled a (fun hh => h hh.1)
  cases i with
  | cmdNone => simp only [exec, execCmdNone, hc]
  | cmdBlink => simp only [exec, execCmdBlink, hc]
  | cmdBoot => simp only [exec, execCmdBoot, hc]
  | cmdKey03 => simp only [exec, execCmdKey03, hc]
  | cmdKey04 => simp only [exec, execCmdKey04, hc]
  | cmdKey05 => simp only [exec, execCmdKey05, hc]
  | cmdKey06 => simp only [exec, execCmdKey06, hc]
  | cmdKey07 => simp only [exec, execCmdKey07, hc]
  | cmdKey08 => simp only [exec, execCmdKey08, hc]
  | cmdKey09 => simp only [exec, execCmdKey09, hc]
  | cmdKey0A => simp only [exec, execCmdKey0A, hc]
  | cmdKey0B => simp only [exec, execCmdKey0B, hc]
  | cmdKey0C => simp only [exec, execCmdKey0C, hc]
  | cmdKey0D => simp only [exec, execCmdKey0D, hc]
  | cmdLkey0E => simp only [exec, execCmdLkey0E, hc]
  | cmdLkey0F => simp only [exec, execCmdLkey0F, hc]
  | cmdIgn _ => simp only [exec, execCmdIgn, hc]
  | evAddrRx _ => simp only [exec, execEvAddrRx, he]
  | evDataRx _ => simp only [exec, execEvDataRx, he]
  | evDataNack _ => simp only [exec, execEvDataNack, he]
  | evStop _ => simp only [exec, execEvStop, he]
  | evAddrTx _ => simp only [exec, execEvAddrTx, he]
  | evBusErr _ => simp only [exec, execEvBusErr, he]
  | evOther _ => simp only [exec, execEvOther, he]
  | evReserved7 _ => simp only [exec, execEvReserved7, he]

/-- A PASS in RUNNING is the arm of STATE after the blink step (43_press_release_sequencer.md R110). -/
theorem passStep_running {s : State} (h : s.run = .running) : passStep s = passArm (blinkStep s) := if_pos h

theorem passStep_not_running {s : State} (h : s.run ≠ .running) : passStep s = notEnabled s := if_neg h

end Sys2Proof.Laws
end

