-- ==== Sys2Proof/Laws/PerInstr.lean ====
section
/-! SUPPORT. The family MatchesRow: the encoding of a well-formed instruction meets the match and mask of a row of
spec/opcode_table.json that has its mnemonic. -/

namespace Sys2Proof.Laws

open Sys2Proof.Machine

/-- A row of the opcode table: its match and its mask, in a word of the format's width. -/
inductive Row where
  | cmd (matchBits mask : BitVec 8)
  | evt (matchBits mask : BitVec 11)

/-- An encoded instruction meets a row's match and mask. -/
def Row.admits : Row → Encoded → Prop
  | .cmd m k, .cmd c => c &&& k = m
  | .evt m k, .evt w => w &&& k = m
  | .cmd _ _, .evt _ => False
  | .evt _ _, .cmd _ => False

/-- The rows of spec/opcode_table.json with an instruction's mnemonic. -/
def rowsOf : Instr → List Row
  | .cmdNone => [.cmd 0x00#8 0xFF#8]
  | .cmdBlink => [.cmd 0x01#8 0xFF#8]
  | .cmdBoot => [.cmd 0x02#8 0xFF#8]
  | .cmdKey03 => [.cmd 0x03#8 0xFF#8]
  | .cmdKey04 => [.cmd 0x04#8 0xFF#8]
  | .cmdKey05 => [.cmd 0x05#8 0xFF#8]
  | .cmdKey06 => [.cmd 0x06#8 0xFF#8]
  | .cmdKey07 => [.cmd 0x07#8 0xFF#8]
  | .cmdKey08 => [.cmd 0x08#8 0xFF#8]
  | .cmdKey09 => [.cmd 0x09#8 0xFF#8]
  | .cmdKey0A => [.cmd 0x0A#8 0xFF#8]
  | .cmdKey0B => [.cmd 0x0B#8 0xFF#8]
  | .cmdKey0C => [.cmd 0x0C#8 0xFF#8]
  | .cmdKey0D => [.cmd 0x0D#8 0xFF#8]
  | .cmdLkey0E => [.cmd 0x0E#8 0xFF#8]
  | .cmdLkey0F => [.cmd 0x0F#8 0xFF#8]
  | .cmdIgn _ => [.cmd 0x10#8 0xF0#8, .cmd 0x20#8 0xE0#8, .cmd 0x40#8 0xC0#8, .cmd 0x80#8 0x80#8]
  | .evAddrRx _ => [.evt 0x000#11 0x700#11]
  | .evDataRx _ => [.evt 0x100#11 0x700#11]
  | .evDataNack _ => [.evt 0x200#11 0x700#11]
  | .evStop _ => [.evt 0x300#11 0x700#11]
  | .evAddrTx _ => [.evt 0x400#11 0x700#11]
  | .evBusErr _ => [.evt 0x500#11 0x700#11]
  | .evOther _ => [.evt 0x600#11 0x700#11]
  | .evReserved7 _ => [.evt 0x700#11 0x700#11]

/-- The encoding of a well-formed instruction meets one of its rows. -/
def MatchesRow.Statement (i : Instr) : Prop := i.wf = true → ∃ r ∈ rowsOf i, r.admits (encodeWord i)

theorem MatchesRow.cmdNone : MatchesRow.Statement .cmdNone := fun _ => ⟨_, List.mem_cons_self, rfl⟩

theorem MatchesRow.cmdBlink : MatchesRow.Statement .cmdBlink := fun _ => ⟨_, List.mem_cons_self, rfl⟩

theorem MatchesRow.cmdBoot : MatchesRow.Statement .cmdBoot := fun _ => ⟨_, List.mem_cons_self, rfl⟩

theorem MatchesRow.cmdKey03 : MatchesRow.Statement .cmdKey03 := fun _ => ⟨_, List.mem_cons_self, rfl⟩

theorem MatchesRow.cmdKey04 : MatchesRow.Statement .cmdKey04 := fun _ => ⟨_, List.mem_cons_self, rfl⟩

theorem MatchesRow.cmdKey05 : MatchesRow.Statement .cmdKey05 := fun _ => ⟨_, List.mem_cons_self, rfl⟩

theorem MatchesRow.cmdKey06 : MatchesRow.Statement .cmdKey06 := fun _ => ⟨_, List.mem_cons_self, rfl⟩

theorem MatchesRow.cmdKey07 : MatchesRow.Statement .cmdKey07 := fun _ => ⟨_, List.mem_cons_self, rfl⟩

theorem MatchesRow.cmdKey08 : MatchesRow.Statement .cmdKey08 := fun _ => ⟨_, List.mem_cons_self, rfl⟩

theorem MatchesRow.cmdKey09 : MatchesRow.Statement .cmdKey09 := fun _ => ⟨_, List.mem_cons_self, rfl⟩

theorem MatchesRow.cmdKey0A : MatchesRow.Statement .cmdKey0A := fun _ => ⟨_, List.mem_cons_self, rfl⟩

theorem MatchesRow.cmdKey0B : MatchesRow.Statement .cmdKey0B := fun _ => ⟨_, List.mem_cons_self, rfl⟩

theorem MatchesRow.cmdKey0C : MatchesRow.Statement .cmdKey0C := fun _ => ⟨_, List.mem_cons_self, rfl⟩

theorem MatchesRow.cmdKey0D : MatchesRow.Statement .cmdKey0D := fun _ => ⟨_, List.mem_cons_self, rfl⟩

theorem MatchesRow.cmdLkey0E : MatchesRow.Statement .cmdLkey0E := fun _ => ⟨_, List.mem_cons_self, rfl⟩

theorem MatchesRow.cmdLkey0F : MatchesRow.Statement .cmdLkey0F := fun _ => ⟨_, List.mem_cons_self, rfl⟩

theorem MatchesRow.cmdIgn (c : Byte) : MatchesRow.Statement (.cmdIgn c) := by
  have h : ∀ c : Byte, c.extractLsb' 4 4 ≠ 0#4 →
      c &&& 0xF0#8 = 0x10#8 ∨ c &&& 0xE0#8 = 0x20#8 ∨ c &&& 0xC0#8 = 0x40#8 ∨ c &&& 0x80#8 = 0x80#8 := by decide
  intro hw
  simpa [rowsOf, Row.admits, encodeWord] using h c (by simpa [Instr.wf] using hw)

/-- The mask of the event rows keeps the class (30_encoding.md R56). -/
theorem evtWordOf_and_mask (cls : BitVec 3) (p : Byte) : evtWordOf cls p &&& 0x700#11 = evtWordOf cls 0x00#8 := by
  have h : ∀ (cls : BitVec 3) (p : Byte), evtWordOf cls p &&& 0x700#11 = evtWordOf cls 0x00#8 := by decide
  exact h cls p

theorem MatchesRow.evAddrRx (p : Byte) : MatchesRow.Statement (.evAddrRx p) :=
  fun _ => ⟨_, List.mem_cons_self, evtWordOf_and_mask _ p⟩

theorem MatchesRow.evDataRx (p : Byte) : MatchesRow.Statement (.evDataRx p) :=
  fun _ => ⟨_, List.mem_cons_self, evtWordOf_and_mask _ p⟩

theorem MatchesRow.evDataNack (p : Byte) : MatchesRow.Statement (.evDataNack p) :=
  fun _ => ⟨_, List.mem_cons_self, evtWordOf_and_mask _ p⟩

theorem MatchesRow.evStop (p : Byte) : MatchesRow.Statement (.evStop p) :=
  fun _ => ⟨_, List.mem_cons_self, evtWordOf_and_mask _ p⟩

theorem MatchesRow.evAddrTx (p : Byte) : MatchesRow.Statement (.evAddrTx p) :=
  fun _ => ⟨_, List.mem_cons_self, evtWordOf_and_mask _ p⟩

theorem MatchesRow.evBusErr (p : Byte) : MatchesRow.Statement (.evBusErr p) :=
  fun _ => ⟨_, List.mem_cons_self, evtWordOf_and_mask _ p⟩

theorem MatchesRow.evOther (p : Byte) : MatchesRow.Statement (.evOther p) :=
  fun _ => ⟨_, List.mem_cons_self, evtWordOf_and_mask _ p⟩

theorem MatchesRow.evReserved7 (p : Byte) : MatchesRow.Statement (.evReserved7 p) :=
  fun _ => ⟨_, List.mem_cons_self, evtWordOf_and_mask _ p⟩

end Sys2Proof.Laws
end

