-- ==== Sys2Proof/Laws/Step.lean ====
section
/-! SUPPORT. What each move can do, said once: if it answers a next state, then one of these cases holds. Every invariant is a
case analysis over them. -/

namespace Sys2Proof.Laws

open Sys2Proof.Machine

/-- What an EVENT can answer: nothing taken, or the effect of one of the eight classes on the state without the word
(41_bus_slave_receiver.md R80). -/
theorem eventStep_next {s t : State} (h : eventStep s = .next t) :
    (s.run ≠ .faulted ∧ t = s) ∨
    (s.run = .running ∧ s.ie = true ∧ ∃ p,
      ((s.evtIn = some (evtWordOf 0b000#3 p) ∨ s.evtIn = some (evtWordOf 0b010#3 p) ∨
          s.evtIn = some (evtWordOf 0b011#3 p)) ∧ t = { s with evtIn := none, rxack := true }) ∨
      (s.evtIn = some (evtWordOf 0b001#3 p) ∧
        t = { s with evtIn := none, mbox := if s.mbox = 0x00#8 then p else s.mbox, rxack := false }) ∨
      (s.evtIn = some (evtWordOf 0b100#3 p) ∧ t = { s with evtIn := none, txdata := 0xFF#8, rxack := true }) ∨
      (s.evtIn = some (evtWordOf 0b101#3 p) ∧
        t = { s with evtIn := none, rxack := true, trace := s.trace ++ [.stopRecover] }) ∨
      ((s.evtIn = some (evtWordOf 0b110#3 p) ∨ s.evtIn = some (evtWordOf 0b111#3 p)) ∧
        t = { s with
              evtIn := none, trace := s.trace ++ [.dbgMarker (s.cfg.faultMarker ++ [p])], fcause := .protocol,
              fstatus := p, ie := false, run := .faulted })) := by
  obtain he | ⟨w, he⟩ := Option.eq_none_or_eq_some s.evtIn
  · simp only [eventStep, he] at h
    exact .inl ⟨(notEnabled_next h).2, (notEnabled_next h).1⟩
  · simp only [eventStep, he] at h
    obtain ⟨p, hp⟩ := decodeEvt_cases w
    rcases hp with ⟨hw, hd⟩ | ⟨hw, hd⟩ | ⟨hw, hd⟩ | ⟨hw, hd⟩ | ⟨hw, hd⟩ | ⟨hw, hd⟩ | ⟨hw, hd⟩ | ⟨hw, hd⟩ <;>
      rw [hd] at h <;>
      simp only [exec, execEvAddrRx, execEvDataRx, execEvDataNack, execEvStop, execEvAddrTx, execEvBusErr, execEvOther,
        execEvReserved7] at h <;>
      rcases takeEvent_next h with ⟨hr, hi, rfl⟩ | ⟨-, hf, rfl⟩
    all_goals first | exact .inl ⟨hf, rfl⟩ | refine .inr ⟨hr, hi, p, ?_⟩
    · exact .inl ⟨.inl (by rw [he, hw]), rfl⟩
    · exact .inr (.inl ⟨by rw [he, hw], rfl⟩)
    · exact .inl ⟨.inr (.inl (by rw [he, hw])), rfl⟩
    · exact .inl ⟨.inr (.inr (by rw [he, hw])), rfl⟩
    · exact .inr (.inr (.inl ⟨by rw [he, hw], rfl⟩))
    · exact .inr (.inr (.inr (.inl ⟨by rw [he, hw], rfl⟩)))
    · exact .inr (.inr (.inr (.inr ⟨.inl (by rw [he, hw]), rfl⟩)))
    · exact .inr (.inr (.inr (.inr ⟨.inr (by rw [he, hw]), rfl⟩)))

/-- What a PASS can answer: nothing, or the blink step and one arm (43_press_release_sequencer.md R115). -/
theorem passStep_next {s t : State} (h : passStep s = .next t) :
    (s.run ≠ .running ∧ s.run ≠ .faulted ∧ t = s) ∨
    (s.run = .running ∧ s.state = .idle ∧
      ((s.mbox = 0x00#8 ∧ t = blinkStep s) ∨
       (s.mbox = 0x01#8 ∧ t = { blinkStep s with blink := 1, mbox := 0x00#8 }) ∨
       (s.mbox = 0x02#8 ∧
         t = { blinkStep s with
               ie := false, run := .rebooting, ds := dsMemWrite s.ds s.cfg.sentinelAddr s.cfg.sentinelBytes,
               trace := (blinkStep s).trace ++ [.dsWrite s.cfg.sentinelAddr s.cfg.sentinelBytes, .wdtArm] }) ∨
       (isKeyCommand s.mbox = true ∧
         t = { blinkStep s with
               state := .pressing, key := keyCodeOf s.cfg s.mbox, deadline := durationOf s.cfg s.mbox, tcnt := 0,
               tov := false }) ∨
       (0x10 ≤ s.mbox.toNat ∧ t = { blinkStep s with mbox := 0x00#8 }))) ∨
    (s.run = .running ∧ s.state ≠ .idle ∧ (s.tcnt ≤ s.deadline ∧ s.tov = false) ∧ t = blinkStep s) ∨
    (s.run = .running ∧ s.state = .pressing ∧ (s.deadline < s.tcnt ∨ s.tov = true) ∧
      t = { blinkStep s with
            key := 0x00#8, tcnt := 0, tov := false, deadline := s.cfg.releaseHold, state := .releasing }) ∨
    (s.run = .running ∧ s.state = .releasing ∧ (s.deadline < s.tcnt ∨ s.tov = true) ∧
      t = { blinkStep s with mbox := 0x00#8, state := .idle }) := by
  by_cases hr : s.run = .running
  · rw [passStep_running hr] at h
    obtain hs | hs | hs : s.state = .idle ∨ s.state = .pressing ∨ s.state = .releasing := by cases s.state <;> simp
    · refine .inr (.inl ⟨hr, hs, ?_⟩)
      simp only [passArm, blinkStep_state, hs, blinkStep_mbox] at h
      have hen : (blinkStep s).run = .running ∧ (blinkStep s).state = .idle := by simp [hr, hs]
      rcases exec_decodeCmd_cases s.mbox with ⟨hm, hd⟩ | ⟨hm, hd⟩ | ⟨hm, hd⟩ | ⟨hm, hd⟩ | ⟨hm, -, -, hd⟩ <;>
        rw [hd, idleArm_enabled _ hen.1 hen.2] at h <;> cases h
      · exact .inl ⟨hm, rfl⟩
      · exact .inr (.inl ⟨hm, rfl⟩)
      · exact .inr (.inr (.inl ⟨hm, by rw [afterDispatch_boot]; simp⟩))
      · exact .inr (.inr (.inr (.inl ⟨hm, by rw [afterDispatch_key]; simp⟩)))
      · exact .inr (.inr (.inr (.inr ⟨hm, rfl⟩)))
    · simp only [passArm, blinkStep_state, hs] at h
      cases h
      by_cases he : s.deadline < s.tcnt ∨ s.tov = true
      · refine .inr (.inr (.inr (.inl ⟨hr, hs, he, ?_⟩)))
        rw [pressingArm_expired ((expired_iff _).2 (by simpa using he))]; simp
      · refine .inr (.inr (.inl ⟨hr, by simp [hs], by simpa using he, ?_⟩))
        rw [pressingArm_not_expired]
        simpa [expired] using he
    · simp only [passArm, blinkStep_state, hs] at h
      cases h
      by_cases he : s.deadline < s.tcnt ∨ s.tov = true
      · refine .inr (.inr (.inr (.inr ⟨hr, hs, he, ?_⟩)))
        rw [releasingArm_expired ((expired_iff _).2 (by simpa using he))]
      · refine .inr (.inr (.inl ⟨hr, by simp [hs], by simpa using he, ?_⟩))
        rw [releasingArm_not_expired]
        simpa [expired] using he
  · rw [passStep_not_running hr] at h
    exact .inl ⟨hr, (notEnabled_next h).2, (notEnabled_next h).1⟩

/-- What a TICK can answer (43_press_release_sequencer.md R105). -/
theorem tickStep_next {s t : State} (h : tickStep s = .next t) :
    ((s.run = .boot ∨ s.run = .running) ∧ t = tickCounter s) ∨ (s.run = .rebooting ∧ t = s) := by
  cases hr : s.run <;> simp only [tickStep, hr] at h
  · cases h; exact .inl ⟨.inl rfl, rfl⟩
  · cases h; exact .inl ⟨.inr rfl, rfl⟩
  · exact .inr ⟨rfl, (notEnabled_next h).1⟩
  · exact absurd hr (notEnabled_next h).2

/-- What a HID_READ can answer (43_press_release_sequencer.md R119). -/
theorem hidReadStep_next {s t : State} (h : hidReadStep s = .next t) :
    (s.run = .running ∧ t = emit (.hidReturn s.key) s) ∨ (s.run ≠ .running ∧ s.run ≠ .faulted ∧ t = s) := by
  by_cases hr : s.run = .running
  · rw [hidReadStep, if_pos hr] at h
    cases h
    exact .inl ⟨hr, rfl⟩
  · rw [hidReadStep, if_neg hr] at h
    exact .inr ⟨hr, (notEnabled_next h).2, (notEnabled_next h).1⟩

/-- The peripheral's presentation changes at most EVT_IN, and only when it is empty. -/
theorem presentWord_cases (w : EvtWord) (s : State) :
    (s.evtIn = none ∧ presentWord w s = { s with evtIn := some w }) ∨ (s.evtIn ≠ none ∧ presentWord w s = s) := by
  obtain he | ⟨v, he⟩ := Option.eq_none_or_eq_some s.evtIn
  · exact .inl ⟨he, by simp [presentWord, he]⟩
  · exact .inr ⟨by simp [he], by simp [presentWord, he]⟩

/-- Programming changes at most PS, never during BOOT. -/
theorem programPs_cases (a : Nat) (b : Byte) (s : State) :
    (s.run ≠ .boot ∧ programPs a b s = { s with ps := writeByte .ps s.ps a b }) ∨ programPs a b s = s := by
  unfold programPs
  split
  · next h => exact .inl ⟨h.1, rfl⟩
  · exact .inr rfl

/-- One case per kind of move (00_scope.md R9): whatever follows from each kind's answer follows from the move's. -/
theorem perform_next {m : Move} {s t : State} {P : Prop} (h : perform m s = .next t)
    (hReset : m = .reset → t = resetStep s → P) (hLk : m = .lkStep → lkStep s = .next t → P)
    (hEvent : m = .event → eventStep s = .next t → P) (hPass : m = .pass → passStep s = .next t → P)
    (hTick : m = .tick → tickStep s = .next t → P) (hHid : m = .hidRead → hidReadStep s = .next t → P)
    (hWord : ∀ w, (m = .present w ∨ ∃ st d, m = .report st d ∧ w = reportWord s.cfg st d) → t = presentWord w s → P)
    (hProgram : ∀ a b, m = .program a b → t = programPs a b s → P) : P := by
  cases m with
  | reset => cases h; exact hReset rfl rfl
  | lkStep => exact hLk rfl h
  | event => exact hEvent rfl h
  | pass => exact hPass rfl h
  | tick => exact hTick rfl h
  | hidRead => exact hHid rfl h
  | present w => cases h; exact hWord w (.inl rfl) rfl
  | report st d => cases h; exact hWord _ (.inr ⟨st, d, rfl, rfl⟩) rfl
  | program a b => cases h; exact hProgram a b rfl rfl

/-- A run of two lists of moves is the one after the other. -/
theorem runMoves_append (xs ys : List Move) (s : State) :
    runMoves (xs ++ ys) s =
      match runMoves xs s with
      | .next t => runMoves ys t
      | .fault f => .fault f
      | .refused r => .refused r := by
  induction xs generalizing s with
  | nil => rfl
  | cons x xs ih => simp only [List.cons_append, runMoves]; cases perform x s <;> simp [ih]

/-- The bounds a configuration that meets 00_scope.md R6 gives the deadlines and the blink count. -/
theorem configOk_bounds {cfg : Config} (h : configOk cfg = true) :
    cfg.pressNormal ≤ 2 ^ cfg.timerW - 1 ∧ cfg.pressLong ≤ 2 ^ cfg.timerW - 1 ∧
    cfg.releaseHold ≤ 2 ^ cfg.timerW - 1 ∧ cfg.releaseHold < cfg.pressNormal ∧
    2 ≤ cfg.blinkEnd ∧ cfg.blinkEnd ≤ 2 ^ cfg.blinkW - 1 := by
  simp only [configOk, Bool.and_eq_true, decide_eq_true_eq] at h
  omega

end Sys2Proof.Laws
end

