-- ==== Sys2Proof/Tests/Slice0.lean ====
section
/-! SUPPORT. Small tests, one step each, with results from 30_encoding.md and 95_test_vectors.md (whose vector each names), and
a witness for every statement that has hypotheses: a concrete state and operands that meet them together. -/

namespace Sys2Proof.Tests

open Sys2Proof.Machine

/-! ### Helpers -/

/-- The outcome is a next state of which p holds. -/
def nextHas (r : Result) (p : State → Bool) : Bool :=
  match r with
  | .next t => p t
  | .fault _ => false
  | .refused _ => false

/-- The outcome is this fault. -/
def faultIs (r : Result) (f : Fault) : Bool :=
  match r with
  | .next _ => false
  | .fault g => decide (g = f)
  | .refused _ => false

/-- The outcome is this refusal. -/
def refusedIs (r : Result) (f : Refusal) : Bool :=
  match r with
  | .next _ => false
  | .fault _ => false
  | .refused g => decide (g = f)

/-- RUNNING after a boot that found no cell, under P_EX. -/
def running : State := { State.reset with run := .running, ie := true, lkPhase := .done, lkIdx := 4, addr := 0x10#8 }

/-- The start of the dispatch vectors DP1 to DP22. -/
def idleWith (c : Byte) : State := { running with mbox := c, tcnt := 0x37, tov := true }

/-- PRESSING of command 0x07. -/
def pressing : State := { running with state := .pressing, mbox := 0x07#8, key := 0x58#8, deadline := 100 }

/-- RELEASING of command 0x07. -/
def releasing : State := { running with state := .releasing, mbox := 0x07#8, deadline := 50 }

def faulted : State := { running with run := .faulted, ie := false, fcause := .protocol, fstatus := 0xF8#8 }

def rebooting : State := { running with run := .rebooting, ie := false, mbox := 0x02#8 }

/-- The table of vector LK4. -/
def lk4 : State :=
  { State.reset with
    ps := [(0, 0x00#8), (1, 0x80#8), (2, 0xFE#8), (3, 0x00#8), (4, 0x11#8), (5, 0x22#8), (6, 0x33#8), (7, 0x44#8)] }

/-- P_EX without cells (vector LK8). -/
def noCells : Config := { Config.pEx with nCells := 0 }

/-- Short deadlines, so that a whole cycle is a few moves. -/
def quick : Config := { Config.pEx with pressNormal := 1, pressLong := 2, releaseHold := 0 }

/-- A configuration that R6 refuses: RELEASE_HOLD is not below PRESS_NORMAL. -/
def badCfg : Config := { Config.pEx with releaseHold := 100 }

/-! ### Decoding: words written out from 30_encoding.md R51, R54 and R55 -/

theorem test_decode_commands_plain :
    decodeTableWord 8 0b00000000 = some .cmdNone ∧
    decodeTableWord 8 0b00000001 = some .cmdBlink ∧
    decodeTableWord 8 0b00000010 = some .cmdBoot := by decide

theorem test_decode_commands_key :
    decodeTableWord 8 0b00000011 = some .cmdKey03 ∧
    decodeTableWord 8 0b00000100 = some .cmdKey04 ∧
    decodeTableWord 8 0b00000101 = some .cmdKey05 ∧
    decodeTableWord 8 0b00000110 = some .cmdKey06 ∧
    decodeTableWord 8 0b00000111 = some .cmdKey07 ∧
    decodeTableWord 8 0b00001000 = some .cmdKey08 ∧
    decodeTableWord 8 0b00001001 = some .cmdKey09 ∧
    decodeTableWord 8 0b00001010 = some .cmdKey0A ∧
    decodeTableWord 8 0b00001011 = some .cmdKey0B ∧
    decodeTableWord 8 0b00001100 = some .cmdKey0C ∧
    decodeTableWord 8 0b00001101 = some .cmdKey0D := by decide

theorem test_decode_commands_lkey :
    decodeTableWord 8 0b00001110 = some .cmdLkey0E ∧
    decodeTableWord 8 0b00001111 = some .cmdLkey0F := by decide

theorem test_decode_commands_ignored :
    decodeTableWord 8 0b00010000 = some (.cmdIgn 0x10#8) ∧
    decodeTableWord 8 0b00011110 = some (.cmdIgn 0x1E#8) ∧
    decodeTableWord 8 0b11110011 = some (.cmdIgn 0xF3#8) ∧
    decodeTableWord 8 0b11111111 = some (.cmdIgn 0xFF#8) := by decide

/-- Class in bits 10:8, payload in bits 7:0; the words of vectors RX12, RX2, RX6, RX13, RX8, RX9, RX10, RX11. -/
theorem test_decode_events :
    decodeTableWord 16 0b00011111111 = some (.evAddrRx 0xFF#8) ∧
    decodeTableWord 16 0b00100000111 = some (.evDataRx 0x07#8) ∧
    decodeTableWord 16 0b01001010101 = some (.evDataNack 0x55#8) ∧
    decodeTableWord 16 0b01111000101 = some (.evStop 0xC5#8) ∧
    decodeTableWord 16 0b10000000000 = some (.evAddrTx 0x00#8) ∧
    decodeTableWord 16 0b10100000000 = some (.evBusErr 0x00#8) ∧
    decodeTableWord 16 0b11011111000 = some (.evOther 0xF8#8) ∧
    decodeTableWord 16 0b11110101011 = some (.evReserved7 0xAB#8) := by decide

/-- An EVT word has 11 bits and a CMD word 8: a set bit above them is no instruction, nor is another length. -/
theorem test_decode_refuses :
    decodeTableWord 16 0x800 = none ∧ decodeTableWord 8 0x100 = none ∧
    (decode .cmd []).toOption = none ∧ (decode .evt [0x07#8]).toOption = none ∧
    (decode .evt [0x07#8, 0x09#8]).toOption = none := by decide

theorem test_encode_words :
    encodeWord .cmdLkey0E = .cmd 0b00001110#8 ∧ encodeWord (.evDataRx 0x07#8) = .evt 0b00100000111#11 ∧
    encode (.evOther 0xF8#8) = (.evt, [0b11111000#8, 0b00000110#8]) := by decide

/-! ### Well-formedness and the configuration -/

/-- CMD_IGN is 0x10 to 0xFF only. -/
theorem test_wf_refuses_ignored_below_0x10 :
    (Instr.cmdIgn 0x0F#8).wf = false ∧ (Instr.cmdIgn 0x05#8).wf = false ∧ (Instr.cmdIgn 0x10#8).wf = true := by decide

theorem test_config_example_accepted : configOk Config.pEx = true := by decide

/-- One broken constraint of 00_scope.md R6 each. -/
theorem test_config_refused :
    configOk { Config.pEx with psAw := 0, nCells := 0 } = false ∧ configOk { Config.pEx with tableBase := 249 } = false ∧
    configOk { Config.pEx with timerW := 0, pressNormal := 0, pressLong := 0, releaseHold := 0 } = false ∧
    configOk { Config.pEx with pressLong := 256 } = false ∧ configOk { Config.pEx with pressLong := 100 } = false ∧
    configOk { Config.pEx with releaseHold := 100 } = false ∧ configOk { Config.pEx with keypadEnter := 0x28#8 } = false ∧
    configOk { Config.pEx with blinkEnd := 1 } = false ∧ configOk { Config.pEx with blinkEnd := 256 } = false ∧
    configOk { Config.pEx with blinkPattern := [(5, 0)] } = false ∧ configOk { Config.pEx with sentinelBytes := [] } = false := by
  decide

theorem test_bad_config_step : refusedIs (step { State.reset with cfg := badCfg, script := [.tick] }) .badConfig = true := by
  decide

/-! ### The first step after reset runs the placed word -/

theorem test_placed_command_runs :
    nextHas (step (State.reset.withFetchWord 8 0x07)) (fun t => decide (t.state = .pressing) && t.key == 0x58#8) = true := by
  decide

theorem test_placed_event_runs :
    nextHas (step (State.reset.withFetchWord 16 0x107)) (fun t => t.mbox == 0x07#8 && !t.rxack && t.evtIn == none) = true := by
  decide

/-! ### Events (95_test_vectors.md 2.2) -/

/-- RX1. -/
theorem test_addr_rx :
    nextHas (exec (.evAddrRx 0x00#8) { running with rxack := false, mbox := 0x05#8 })
      (fun t => t.rxack && t.mbox == 0x05#8 && t.trace == []) = true := by decide

/-- RX12. -/
theorem test_addr_rx_payload_ignored :
    nextHas (exec (.evAddrRx 0xFF#8) { running with rxack := false })
      (fun t => t.rxack && t.mbox == 0x00#8) = true := by decide

/-- RX2. -/
theorem test_data_rx_stores :
    nextHas (exec (.evDataRx 0x07#8) running)
      (fun t => t.mbox == 0x07#8 && !t.rxack) = true := by decide

/-- RX3. -/
theorem test_data_rx_full :
    nextHas (exec (.evDataRx 0x09#8) { running with mbox := 0x07#8 })
      (fun t => t.mbox == 0x07#8 && !t.rxack) = true := by decide

/-- RX6. -/
theorem test_data_nack_not_stored :
    nextHas (exec (.evDataNack 0x55#8) { running with rxack := false })
      (fun t => t.rxack && t.mbox == 0x00#8) = true := by decide

/-- RX7. -/
theorem test_stop :
    nextHas (exec (.evStop 0x00#8) { running with rxack := false, mbox := 0x07#8 })
      (fun t => t.rxack && t.mbox == 0x07#8) = true := by decide

/-- RX8. -/
theorem test_addr_tx :
    nextHas (exec (.evAddrTx 0x00#8) { running with rxack := false })
      (fun t => t.txdata == 0xFF#8 && t.rxack && t.mbox == 0x00#8) = true := by decide

/-- RX9. -/
theorem test_bus_err :
    nextHas (exec (.evBusErr 0x00#8) { pressing with rxack := false })
      (fun t => t.rxack && t.mbox == 0x07#8 && t.key == 0x58#8 && t.trace == [.stopRecover]) = true := by decide

/-- RX10. -/
theorem test_other_is_fatal :
    nextHas (exec (.evOther 0xF8#8) { running with mbox := 0x03#8 })
      (fun t => decide (t.run = .faulted) && decide (t.fcause = .protocol) && t.fstatus == 0xF8#8 && !t.ie &&
        t.mbox == 0x03#8 && t.trace == [.dbgMarker [0x21#8, 0xF8#8]]) = true := by decide

/-- RX11. -/
theorem test_reserved_class_is_fatal :
    nextHas (exec (.evReserved7 0xAB#8) running)
      (fun t => decide (t.run = .faulted) && t.fstatus == 0xAB#8 && t.trace == [.dbgMarker [0x21#8, 0xAB#8]]) = true := by decide

/-- RX14, LK10. -/
theorem test_event_waits_in_boot :
    nextHas (perform .event { State.reset with evtIn := some 0x107#11 })
      (fun t => t.evtIn == some 0x107#11 && t.mbox == 0x00#8) = true := by decide

/-- RX16. -/
theorem test_event_in_faulted :
    faultIs (perform .event { faulted with evtIn := some 0x107#11 }) .protocolFault = true := by decide

/-! ### Commands (95_test_vectors.md 2.3), each a PASS -/

/-- DP1. -/
theorem test_none :
    nextHas (perform .pass (idleWith 0x00#8))
      (fun t => t == idleWith 0x00#8) = true := by decide

/-- DP2. -/
theorem test_blink :
    nextHas (perform .pass (idleWith 0x01#8))
      (fun t => t.blink == 1 && t.mbox == 0x00#8 && decide (t.state = .idle) && t.key == 0x00#8) = true := by decide

/-- DP3. -/
theorem test_blink_restart :
    nextHas (perform .pass { idleWith 0x01#8 with blink := 3 })
      (fun t => t.blink == 1 && t.mbox == 0x00#8 && t.trace == [.blinkAt 4]) = true := by decide

/-- DP4. -/
theorem test_boot :
    nextHas (perform .pass (idleWith 0x02#8))
      (fun t => !t.ie && decide (t.run = .rebooting) && t.mbox == 0x02#8 && decide (t.state = .idle) &&
        t.trace == [.dsWrite 0x0800 [0x77#8, 0x77#8], .wdtArm] && t.ds == [(0x0800, 0x77#8), (0x0801, 0x77#8)]) = true := by decide

/-- DP5. -/
theorem test_key_03 :
    nextHas (perform .pass (idleWith 0x03#8))
      (fun t => decide (t.state = .pressing) && t.key == 0xA3#8 && t.deadline == 100 && t.tcnt == 0 && !t.tov && t.mbox == 0x03#8) = true := by decide

/-- DP6. -/
theorem test_key_04 :
    nextHas (perform .pass (idleWith 0x04#8))
      (fun t => decide (t.state = .pressing) && t.key == 0xA4#8 && t.deadline == 100 && t.tcnt == 0 && !t.tov && t.mbox == 0x04#8) = true := by decide

/-- DP7. -/
theorem test_key_05 :
    nextHas (perform .pass (idleWith 0x05#8))
      (fun t => decide (t.state = .pressing) && t.key == 0xA5#8 && t.deadline == 100 && t.tcnt == 0 && !t.tov && t.mbox == 0x05#8) = true := by decide

/-- DP8. -/
theorem test_key_06 :
    nextHas (perform .pass (idleWith 0x06#8))
      (fun t => decide (t.state = .pressing) && t.key == 0xA6#8 && t.deadline == 100 && t.tcnt == 0 && !t.tov && t.mbox == 0x06#8) = true := by decide

/-- DP9. -/
theorem test_key_07 :
    nextHas (perform .pass (idleWith 0x07#8))
      (fun t => decide (t.state = .pressing) && t.key == 0x58#8 && t.deadline == 100 && t.tcnt == 0 && !t.tov && t.mbox == 0x07#8) = true := by decide

/-- DP10. -/
theorem test_key_08 :
    nextHas (perform .pass (idleWith 0x08#8))
      (fun t => decide (t.state = .pressing) && t.key == 0xA8#8 && t.deadline == 100 && t.tcnt == 0 && !t.tov && t.mbox == 0x08#8) = true := by decide

/-- DP11. -/
theorem test_key_09 :
    nextHas (perform .pass (idleWith 0x09#8))
      (fun t => decide (t.state = .pressing) && t.key == 0xA9#8 && t.deadline == 100 && t.tcnt == 0 && !t.tov && t.mbox == 0x09#8) = true := by decide

/-- DP12. -/
theorem test_key_0a :
    nextHas (perform .pass (idleWith 0x0A#8))
      (fun t => decide (t.state = .pressing) && t.key == 0xAA#8 && t.deadline == 100 && t.tcnt == 0 && !t.tov && t.mbox == 0x0A#8) = true := by decide

/-- DP13. -/
theorem test_key_0b :
    nextHas (perform .pass (idleWith 0x0B#8))
      (fun t => decide (t.state = .pressing) && t.key == 0xAB#8 && t.deadline == 100 && t.tcnt == 0 && !t.tov && t.mbox == 0x0B#8) = true := by decide

/-- DP14. -/
theorem test_key_0c :
    nextHas (perform .pass (idleWith 0x0C#8))
      (fun t => decide (t.state = .pressing) && t.key == 0xAC#8 && t.deadline == 100 && t.tcnt == 0 && !t.tov && t.mbox == 0x0C#8) = true := by decide

/-- DP15. -/
theorem test_key_0d :
    nextHas (perform .pass (idleWith 0x0D#8))
      (fun t => decide (t.state = .pressing) && t.key == 0xAD#8 && t.deadline == 100 && t.tcnt == 0 && !t.tov && t.mbox == 0x0D#8) = true := by decide

/-- DP16. -/
theorem test_lkey_0e :
    nextHas (perform .pass (idleWith 0x0E#8))
      (fun t => decide (t.state = .pressing) && t.key == 0xAE#8 && t.deadline == 200 && t.tcnt == 0 && !t.tov && t.mbox == 0x0E#8) = true := by decide

/-- DP17. -/
theorem test_lkey_0f :
    nextHas (perform .pass (idleWith 0x0F#8))
      (fun t => decide (t.state = .pressing) && t.key == 0xAF#8 && t.deadline == 200 && t.tcnt == 0 && !t.tov && t.mbox == 0x0F#8) = true := by decide

/-- DP18. -/
theorem test_ignored_first :
    nextHas (perform .pass (idleWith 0x10#8))
      (fun t => t == { idleWith 0x10#8 with mbox := 0x00#8 }) = true := by decide

/-- DP21. -/
theorem test_ignored_last :
    nextHas (perform .pass (idleWith 0xFF#8))
      (fun t => t == { idleWith 0xFF#8 with mbox := 0x00#8 }) = true := by decide

/-! ### The sequencer, the timer, the blink counter (95_test_vectors.md 2.4, 2.5) -/

/-- SQ1. -/
theorem test_not_expired_at_deadline :
    nextHas (perform .pass { pressing with tcnt := 100 })
      (fun t => t == { pressing with tcnt := 100 }) = true := by decide

/-- SQ2. -/
theorem test_expired_above_deadline :
    nextHas (perform .pass { pressing with tcnt := 101 })
      (fun t => decide (t.state = .releasing) && t.key == 0x00#8 && t.tcnt == 0 && !t.tov && t.deadline == 50 && t.mbox == 0x07#8) = true := by decide

/-- SQ3. -/
theorem test_expired_by_overflow :
    nextHas (perform .pass { pressing with tcnt := 3, tov := true })
      (fun t => decide (t.state = .releasing)) = true := by decide

/-- SQ4. -/
theorem test_release_not_expired :
    nextHas (perform .pass { releasing with tcnt := 50 })
      (fun t => t == { releasing with tcnt := 50 }) = true := by decide

/-- SQ5. -/
theorem test_release_expired :
    nextHas (perform .pass { releasing with tcnt := 51 })
      (fun t => decide (t.state = .idle) && t.mbox == 0x00#8 && t.deadline == 50) = true := by decide

/-- T1. -/
theorem test_tick_to_max :
    nextHas (perform .tick { running with tcnt := 0xFE }) (fun t => t.tcnt == 0xFF && !t.tov) = true := by decide

/-- T2. -/
theorem test_tick_wraps :
    nextHas (perform .tick { running with tcnt := 0xFF }) (fun t => t.tcnt == 0 && t.tov) = true := by decide

/-- T3. -/
theorem test_tick_sticky :
    nextHas (perform .tick { running with tcnt := 5, tov := true }) (fun t => t.tcnt == 6 && t.tov) = true := by decide

/-- T4. -/
theorem test_tick_in_faulted :
    faultIs (perform .tick faulted) .protocolFault = true := by decide

/-- H1. -/
theorem test_hid_read :
    nextHas (perform .hidRead pressing) (fun t => t == { pressing with trace := [.hidReturn 0x58#8] }) = true := by decide

/-- BL2. -/
theorem test_blink_advances :
    nextHas (perform .pass { running with blink := 1 })
      (fun t => t.blink == 2 && t.trace == [.blinkAt 2]) = true := by decide

/-- BL4. -/
theorem test_blink_ends :
    nextHas (perform .pass { running with blink := 3 })
      (fun t => t.blink == 0 && t.trace == [.blinkAt 4]) = true := by decide

/-- BL5. -/
theorem test_blink_in_pressing :
    nextHas (perform .pass { pressing with blink := 2, tcnt := 5 })
      (fun t => t.blink == 3 && decide (t.state = .pressing) && t.trace == [.blinkAt 3]) = true := by decide

/-! ### The lookup engine and reset (95_test_vectors.md 2.1, 2.6) -/

/-- LK4, step 1. -/
theorem test_scan_inactive :
    nextHas (perform .lkStep lk4) (fun t => t.lkIdx == 1 && t.lkBest == none && t.trace == [.psRead 0]) = true := by decide

/-- LK4, step 3. -/
theorem test_scan_active_replaces :
    nextHas (perform .lkStep { lk4 with lkIdx := 2, lkBest := some 1 })
      (fun t => t.lkIdx == 3 && t.lkBest == some 2 && t.trace == [.psRead 2]) = true := by decide

/-- LK5, step 1. -/
theorem test_scan_erased_is_inactive :
    nextHas (perform .lkStep { lk4 with ps := [(0, 0xFF#8)] }) (fun t => t.lkIdx == 1 && t.lkBest == none) = true := by decide

/-- LK4, step 5. -/
theorem test_scan_end_fetches :
    nextHas (perform .lkStep { lk4 with lkIdx := 4, lkBest := some 2 })
      (fun t => decide (t.lkPhase = .fetch) && decide (t.run = .boot)) = true := by decide

/-- LK4, step 6. -/
theorem test_fetch :
    nextHas (perform .lkStep { lk4 with lkIdx := 4, lkBest := some 2, lkPhase := .fetch })
      (fun t => t.addr == 0x33#8 && decide (t.run = .running) && t.ie && decide (t.lkPhase = .done) && t.trace == [.psRead 6]) = true := by decide

/-- LK8. -/
theorem test_no_cells :
    nextHas (perform .lkStep { State.reset with cfg := noCells }) (fun t => t.addr == 0x10#8 && decide (t.run = .running)) = true := by decide

/-- LK10. -/
theorem test_pass_waits_in_boot :
    nextHas (perform .pass lk4) (fun t => t == lk4) = true := by decide

/-- RS1. -/
theorem test_reset_from_faulted :
    nextHas (perform .reset { faulted with mbox := 0x03#8, key := 0xA3#8, state := .pressing })
      (fun t => decide (t.run = .boot) && decide (t.fcause = .none) && t.fstatus == 0x00#8 && t.mbox == 0x00#8 &&
        t.key == 0x00#8 && decide (t.state = .idle) && t.rxack && !t.ie && decide (t.lkPhase = .scan)) = true := by decide

/-! ### Witnesses: the hypotheses of each statement, met together -/

theorem witness_DecodeEncodeRoundTrip :
    (Instr.cmdIgn 0x10#8).wf = true ∧ (Instr.cmdLkey0F).wf = true ∧ (Instr.evDataRx 0x00#8).wf = true := by decide

theorem witness_DecodedBytesAreTheEncoding :
    decode .cmd [0x10#8] = .ok (.cmdIgn 0x10#8) ∧ decode .evt [0xFF#8, 0x07#8] = .ok (.evReserved7 0xFF#8) := ⟨rfl, rfl⟩

theorem witness_CommandClassByBitTests :
    cmdClassByBits 0x0E#8 = .lkey ∧ cmdClassByBits 0x0F#8 = .lkey ∧ cmdClassByBits 0x03#8 = .key ∧
    cmdClassByBits 0x0D#8 = .key := by decide

theorem witness_ReportedStatusDecodes :
    classify Config.pEx 0x60#8 = .addrRx ∧ classify Config.pEx 0x80#8 = .dataRx ∧
    classify Config.pEx 0x88#8 = .dataNack ∧ classify Config.pEx 0xA0#8 = .stop ∧ classify Config.pEx 0xA8#8 = .addrTx ∧
    classify Config.pEx 0x00#8 = .busErr ∧ classify Config.pEx 0xC0#8 = .other := by decide

theorem witness_StepPerformsTheNextMove :
    configOk { running with script := [.tick] }.cfg = true ∧ { running with script := [Move.tick] }.script = [.tick] ∧
    configOk running.cfg = true ∧ running.script = [] := by decide

theorem witness_StepRunsPresentedEvent :
    let s := { running with script := [.event], evtIn := some 0x107#11 }
    configOk s.cfg = true ∧ s.script = [.event] ∧ s.evtIn = some 0x107#11 := by decide

theorem witness_StepRunsPendingCommand :
    let s := { idleWith 0x07#8 with script := [.pass] }
    configOk s.cfg = true ∧ s.script = [.pass] ∧ s.run = .running ∧ s.state = .idle := by decide

theorem witness_BadConfigurationIsRefused :
    configOk badCfg = false ∧ configOk Config.pEx = true := by decide

theorem witness_ReArmingEventsResult :
    running.run = .running ∧ running.ie = true := by decide

theorem witness_AddressedAsTransmitterResult :
    running.run = .running ∧ running.ie = true := by decide

theorem witness_BusErrorResult :
    running.run = .running ∧ running.ie = true := by decide

theorem witness_ProtocolFaultIsTaken :
    running.run = .running ∧ running.ie = true := by decide

theorem witness_DataReceivedResult :
    running.run = .running ∧ running.ie = true ∧ running.mbox = 0x00#8 ∧
    pressing.run = .running ∧ pressing.ie = true ∧ pressing.mbox ≠ 0x00#8 := by decide

theorem witness_EventsChangeNothingElse :
    ∀ w ∈ [0x0FF#11, 0x107#11, 0x255#11, 0x300#11, 0x400#11, 0x500#11, 0x6F8#11, 0x7AB#11],
    nextHas (exec (decodeEvt w) { running with evtIn := some w }) (fun t => t.evtIn == none) = true := by decide

theorem witness_EventWaitsWhileNotEnabled :
    State.reset.run ≠ .running ∧ State.reset.run ≠ .faulted ∧
    { running with ie := false }.ie = false ∧ { running with ie := false }.run ≠ .faulted := by decide

theorem witness_FaultedModeIsAFault :
    faulted.run = .faulted := by decide

theorem witness_RebootingSpinsUntilReset :
    rebooting.run = .rebooting := by decide

theorem witness_FirstTerminalStepWins :
    let s := { idleWith 0x02#8 with evtIn := some 0x6F8#11 }
    s.run = .running ∧ s.ie = true ∧ s.state = .idle ∧ s.mbox = 0x02#8 ∧ s.evtIn = some (evtWordOf 0b110#3 0xF8#8) := by decide

theorem witness_OnlyFatalEventsFault :
    nextHas (perform .event { running with evtIn := some 0x7AB#11 }) (fun t => decide (t.run = .faulted)) = true ∧
    nextHas (perform .event { running with evtIn := some 0x6F8#11 }) (fun t => decide (t.run = .faulted)) = true ∧
    running.run ≠ .faulted := by decide

theorem witness_NoCommandHasNoEffect :
    (idleWith 0x00#8).run = .running ∧ (idleWith 0x00#8).state = .idle := by decide

theorem witness_BlinkCommandResult :
    (idleWith 0x01#8).run = .running ∧ (idleWith 0x01#8).state = .idle := by decide

theorem witness_RebootCommandResult :
    (idleWith 0x02#8).run = .running ∧ (idleWith 0x02#8).state = .idle ∧
    running.cfg.sentinelBytes[1]? = some 0x77#8 := by decide

theorem witness_IgnoredCommandResult :
    (idleWith 0x10#8).run = .running ∧ (idleWith 0x10#8).state = .idle ∧ 0x10 ≤ (0x10#8).toNat ∧ 0x10 ≤ (0xFF#8).toNat := by decide

theorem witness_MemWriteWritesExactlyItsBytes :
    [0x77#8, 0x78#8][1]? = some 0x78#8 ∧ Memory.wf .ds [(0x0800, 0x01#8)] = true := by decide

theorem witness_KeyCommandsShareOneMeaning :
    0x03 ≤ (0x03#8).toNat ∧ (0x0F#8).toNat ≤ 0x0F ∧ (idleWith 0x03#8).run = .running ∧ (idleWith 0x03#8).state = .idle := by decide

theorem witness_NormalKeyCommandResult :
    (Instr.cmdKey03, 0x03#8) ∈ normalKeys ∧ (Instr.cmdKey0D, 0x0D#8) ∈ normalKeys ∧ running.run = .running ∧
    running.state = .idle ∧ configOk running.cfg = true ∧ 100 ≤ running.cfg.pressNormal := by decide

theorem witness_LongKeyCommandResult :
    (Instr.cmdLkey0E, 0x0E#8) ∈ longKeys ∧ (Instr.cmdLkey0F, 0x0F#8) ∈ longKeys ∧ running.run = .running ∧
    running.state = .idle ∧ configOk running.cfg = true ∧ 200 ≤ running.cfg.pressLong := by decide

theorem witness_CommandsChangeNothingElse :
    ∀ c ∈ [0x00#8, 0x01#8, 0x02#8, 0x03#8, 0x0F#8, 0x10#8],
    nextHas (exec (decodeCmd c) (idleWith c)) (fun t => t.rxack) = true := by decide

theorem witness_CommandWaitsOutsideIdle :
    pressing.state ≠ .idle ∧ pressing.run ≠ .faulted ∧ rebooting.run ≠ .running ∧ rebooting.run ≠ .faulted := by decide

theorem witness_DispatchAcceptsExactlyKeyBytes :
    ∀ c ∈ [0x00#8, 0x01#8, 0x02#8, 0x03#8, 0x0F#8, 0x10#8], (idleWith c).run = .running ∧ (idleWith c).state = .idle := by decide

theorem witness_PassRunsOneArmAfterTheBlinkStep :
    running.run = .running ∧ running.state = .idle ∧ pressing.run = .running ∧ pressing.state = .pressing ∧
    releasing.run = .running ∧ releasing.state = .releasing := by decide

theorem witness_PressingArmResult :
    pressing.run = .running ∧ pressing.state = .pressing ∧
    { pressing with tcnt := 101 }.deadline < { pressing with tcnt := 101 }.tcnt ∧ { pressing with tov := true }.tov = true ∧
    { pressing with tcnt := 100 }.tcnt ≤ { pressing with tcnt := 100 }.deadline ∧ pressing.tov = false := by decide

theorem witness_ReleasingArmResult :
    releasing.run = .running ∧ releasing.state = .releasing ∧
    { releasing with tcnt := 51 }.deadline < { releasing with tcnt := 51 }.tcnt ∧ { releasing with tov := true }.tov = true ∧
    { releasing with tcnt := 50 }.tcnt ≤ { releasing with tcnt := 50 }.deadline ∧ releasing.tov = false := by decide

theorem witness_BlinkStepResult :
    running.blink = 0 ∧ 1 + 1 < 2 ^ running.cfg.blinkW ∧ 1 + 1 ≠ running.cfg.blinkEnd ∧ 3 + 1 < 2 ^ running.cfg.blinkW ∧
    3 + 1 = running.cfg.blinkEnd := by decide

theorem witness_BlinkSequenceEmitsEveryCount :
    configOk { running with blink := 1 }.cfg = true ∧ { running with blink := 1 }.blink = 1 ∧ 3 < running.cfg.blinkEnd := by decide

theorem witness_BlinkDoesNotInterfere :
    sameButBlink { pressing with blink := 2 } { pressing with blink := 0, trace := [.blinkAt 4] } ∧
    nextHas (perform .pass { pressing with blink := 2 }) (fun t => t.blink == 3) = true ∧
    faultIs (perform .pass { faulted with blink := 2 }) .protocolFault = true := ⟨⟨rfl, rfl⟩, by decide, by decide⟩

theorem witness_TickResult :
    State.reset.run = .boot ∧ running.run = .running ∧ { running with tcnt := 255 }.tcnt = 2 ^ running.cfg.timerW - 1 ∧
    { running with tcnt := 255 }.tcnt < 2 ^ running.cfg.timerW ∧ { running with tcnt := 254 }.tcnt ≠ 2 ^ running.cfg.timerW - 1 := by decide

theorem witness_ExpiryAfterDeadlinePlusOneTicks :
    { pressing with deadline := 255 }.deadline ≤ 2 ^ pressing.cfg.timerW - 1 ∧ pressing.tcnt = 0 ∧ pressing.tov = false ∧
    255 < 2 ^ pressing.cfg.timerW ∧ 2 ^ pressing.cfg.timerW ≤ 256 := by decide

theorem witness_OverflowStaysUntilCounterReset :
    { pressing with tov := true }.tov = true := by decide

theorem witness_HidReadReturnsKey :
    pressing.run = .running := by decide

theorem witness_DisabledMovesChangeNothing :
    running.run ≠ .faulted ∧ running.lkPhase = .done ∧ State.reset.run ≠ .faulted ∧ State.reset.run ≠ .running ∧
    rebooting.run ≠ .faulted ∧ rebooting.run = .rebooting ∧ running.evtIn = none := by decide

theorem witness_ScanStepResult :
    lk4.run = .boot ∧ lk4.lkPhase = .scan ∧ lk4.lkIdx < lk4.cfg.nCells ∧ { lk4 with lkIdx := 3 }.lkIdx < lk4.cfg.nCells := by decide

theorem witness_EndOfScanResult :
    let s := { lk4 with lkIdx := 4 }
    s.run = .boot ∧ s.lkPhase = .scan ∧ s.lkIdx = s.cfg.nCells ∧ s.lkBest = none ∧ { s with lkBest := some 2 }.lkBest ≠ none := by decide

theorem witness_FetchResult :
    let s := { lk4 with lkIdx := 4, lkPhase := .fetch, lkBest := some 3 }
    s.run = .boot ∧ s.lkPhase = .fetch ∧ s.lkBest = some 3 ∧ 3 < s.cfg.nCells := by decide

theorem witness_LookupResolvesTheTable :
    lk4.run = .boot ∧ lk4.lkPhase = .scan ∧ lk4.lkIdx = 0 ∧ lk4.lkBest = none ∧ activeCells (tableImage lk4) 4 = [1, 2] ∧
    activeCells (tableImage { lk4 with cfg := noCells }) 0 = [] := by decide

theorem witness_LaunchMeetsTheInvariant :
    configOk Config.pEx = true ∧ Memory.wf .ps [] = true := ⟨by decide, rfl⟩

/-- A state in the middle of a press, with the next move a PASS, meets the invariant. -/
theorem witness_StepKeepsTheInvariant :
    Inv { pressing with script := [.pass] } ∧
    nextHas (step { pressing with script := [.pass] }) (fun t => decide (t.state = .pressing)) = true where
  left :=
    { config := by decide, psForm := rfl, dsForm := rfl, tcntWidth := by decide, deadlineWidth := by decide
      blinkBelowEnd := by decide, lkIdxRange := by decide, lkBestScanned := fun i h => nomatch h
      fetchHasCandidate := by decide, doneScannedAll := by decide, bootPhase := by decide, eventEnable := by decide
      faultRecorded := by decide, noFaultNoStatus := by decide, mailboxHeld := by decide, keyReleased := by decide
      keyPressed := by decide, pressDeadline := by decide, holdDeadline := by decide, bootQuiet := by decide
      rebootHeld := by decide }
  right := by decide

/-- Without cells one LK_STEP ends the boot; the first move after it may be the command's. -/
theorem witness_ReachableRunningStatesKeepSequencerRules :
    configOk noCells = true ∧ Memory.wf .ps [] = true ∧
    nextHas (runMoves [.reset, .lkStep] { State.reset with cfg := noCells }) (fun t => decide (t.run = .running)) = true ∧
    nextHas (runMoves [.reset, .lkStep, .present 0x107#11, .event, .pass] { State.reset with cfg := noCells })
      (fun t => decide (t.run = .running) && decide (t.state = .pressing)) = true :=
  ⟨by decide, rfl, by decide, by decide⟩

/-- The end of a boot without cells. -/
theorem witness_BootEndsQuiet :
    Inv { State.reset with cfg := noCells } ∧ State.reset.run = .boot ∧
    nextHas (perform .lkStep { State.reset with cfg := noCells }) (fun t => decide (t.run = .running)) = true where
  left :=
    { config := by decide, psForm := rfl, dsForm := rfl, tcntWidth := by decide, deadlineWidth := by decide
      blinkBelowEnd := by decide, lkIdxRange := by decide, lkBestScanned := fun i h => nomatch h
      fetchHasCandidate := by decide, doneScannedAll := by decide, bootPhase := by decide, eventEnable := by decide
      faultRecorded := by decide, noFaultNoStatus := by decide, mailboxHeld := by decide, keyReleased := by decide
      keyPressed := by decide, pressDeadline := by decide, holdDeadline := by decide, bootQuiet := by decide
      rebootHeld := by decide }
  right := by decide

theorem witness_MailboxProtocol :
    nextHas (perform .event { running with evtIn := some 0x107#11 }) (fun t => decide (t.mbox ≠ 0x00#8)) = true ∧
    nextHas (perform .pass (idleWith 0x01#8)) (fun t => decide (t.mbox ≠ 0x01#8)) = true ∧
    nextHas (perform .pass (idleWith 0x10#8)) (fun t => decide (t.mbox ≠ 0x10#8)) = true ∧
    nextHas (perform .pass { releasing with tcnt := 51 }) (fun t => decide (t.mbox ≠ 0x07#8)) = true ∧
    nextHas (perform .reset pressing) (fun t => decide (t.mbox ≠ 0x07#8)) = true := by decide

theorem witness_EachRegisterHasItsWriters :
    nextHas (perform .pass { pressing with tcnt := 101 }) (fun t => decide (t.deadline ≠ 100)) = true ∧
    nextHas (perform .tick pressing) (fun t => decide (t.tcnt ≠ 0)) = true ∧
    nextHas (perform .event { running with evtIn := some 0x107#11 }) (fun t => decide (t.rxack ≠ running.rxack)) = true ∧
    nextHas (perform .event { running with evtIn := some 0x107#11 }) (fun t => decide (t.mbox ≠ 0x00#8 ∧ t.evtIn = none)) = true ∧
    nextHas (perform (.present 0x107#11) running) (fun t => decide (t.evtIn ≠ none)) = true ∧
    nextHas (perform (.report 0x80#8 0x07#8) running) (fun t => decide (t.evtIn ≠ none)) = true ∧
    nextHas (perform .pass (idleWith 0x02#8)) (fun t => decide (t.ds ≠ [])) = true ∧
    nextHas (perform .lkStep lk4) (fun t => decide (t.lkIdx ≠ 0)) = true ∧
    nextHas (perform .event { running with evtIn := some 0x6F8#11 }) (fun t => decide (t.run ≠ .running)) = true := by decide

theorem witness_MemoriesAreWrittenOnlyAsStated :
    nextHas (perform .pass (idleWith 0x02#8)) (fun t => decide (t.ds ≠ [])) = true ∧
    nextHas (perform .tick running) (fun t => t.ps == running.ps) = true ∧
    lk4.run = .boot ∧ nextHas (perform (.program 0 0x05#8) lk4) (fun t => t.ps == lk4.ps) = true := by decide

theorem witness_RejectModeEndsOnlyByReArming :
    nextHas (perform .event { running with rxack := false, evtIn := some 0x300#11 }) (fun t => t.rxack) = true ∧
    nextHas (perform .event { running with rxack := false, evtIn := some 0x500#11 }) (fun t => t.rxack) = true ∧
    nextHas (perform .reset { running with rxack := false }) (fun t => t.rxack) = true := by decide

/-- The last tick of the cycle is not among the moves: two of three. -/
theorem witness_BusyMailboxKeepsTheCommand :
    let s := { pressing with cfg := quick, deadline := 1 }
    configOk s.cfg = true ∧ s.run = .running ∧ s.state = .pressing ∧ s.deadline = durationOf s.cfg s.mbox ∧
    isKeyCommand s.mbox = true ∧ s.tcnt = 0 ∧ s.tov = false ∧ Move.reset ∉ [Move.tick, .tick, .pass] ∧
    tickCount [.tick, .tick, .pass] < (durationOf s.cfg s.mbox + 1) + (s.cfg.releaseHold + 1) ∧
    nextHas (runMoves [.tick, .tick, .pass] s) (fun t => decide (t.state = .releasing)) = true := by decide

theorem witness_TwoByteWriteStoresTheFirstByte :
    running.run = .running ∧ running.ie = true ∧ running.evtIn = none ∧ running.mbox = 0x00#8 ∧ pressing.evtIn = none ∧
    pressing.mbox ≠ 0x00#8 := by decide

theorem witness_ReadThenUnmappedStatusIsFatal :
    running.run = .running ∧ running.ie = true ∧ running.evtIn = none ∧ classify running.cfg 0xC0#8 = .other := by decide

end Sys2Proof.Tests
end

/-! PROOF. The scope of the model: which move a step performs (00_scope.md R9), and which configurations it accepts (R6). -/

namespace Sys2Proof.Proofs

open Sys2Proof.Machine Sys2Proof.Laws

/-! ### The move a step performs

Taking the move off the script, or advancing the clock, keeps the configuration, so the attempt is the move itself. -/

theorem step_of_script_cons {s : State} {m : Move} {rest : List Move} (hcfg : configOk s.cfg = true)
    (hscript : s.script = m :: rest) : step s = perform m { s with script := rest } :=
  calc step s
    _ = attempt m { s with script := rest } := by simp only [step, advance, hscript]
    _ = perform m { s with script := rest } := attempt_ok m hcfg

theorem step_of_script_nil {s : State} (hcfg : configOk s.cfg = true) (hscript : s.script = []) :
    step s = perform (Config.schedule s.clock) { s with clock := s.clock + 1 } :=
  calc step s
    _ = attempt (Config.schedule s.clock) { s with clock := s.clock + 1 } := by simp only [step, advance, hscript]
    _ = perform (Config.schedule s.clock) { s with clock := s.clock + 1 } := attempt_ok _ hcfg

/-- Settles O7: a step by what the script holds. -/
theorem stepPerformsTheNextMove : Obligations.StepPerformsTheNextMove := fun _ hcfg =>
  ⟨fun _ _ hscript => step_of_script_cons hcfg hscript, fun hscript => step_of_script_nil hcfg hscript⟩

/-! ### The configurations a step accepts -/

theorem step_of_bad_config {s : State} (hcfg : configOk s.cfg = false) : step s = .refused .badConfig := by
  obtain ⟨m, rest, -, hstep⟩ | ⟨-, hstep⟩ := step_cases s
  · exact hstep.trans (attempt_bad m hcfg)
  · exact hstep.trans (attempt_bad _ hcfg)

theorem ratioPositive_iff (r : Ratio) : ratioPositive r = true ↔ 0 < r.num ∧ 0 < r.den := by
  simp only [ratioPositive, Bool.and_eq_true, decide_eq_true_eq]

/-- KEY_CODE lists the commands from 0x03 on, so 0x07 is at index 4 (42_command_dispatch.md R88). -/
theorem keyCodeOf_0x07 (cfg : Config) : keyCodeOf cfg 0x07#8 = cfg.keyCode[4] := rfl

/-- Settles O10: the test reads, conjunct by conjunct, as the constraints of R6 and R88, and every attempt makes it first. -/
theorem badConfigurationIsRefused : Obligations.BadConfigurationIsRefused := by
  intro s
  constructor
  · simp only [configOk, Bool.and_eq_true, and_assoc, decide_eq_true_eq, beq_iff_eq, ratioPositive_iff, keyCodeOf_0x07,
      List.all_eq_true, Bool.not_eq_true', List.isEmpty_eq_false_iff, ne_eq]
  · exact step_of_bad_config

end Sys2Proof.Proofs

/-! PROOF. The invariant of 10_state.md R33 is kept by every move, so by every step. -/

namespace Sys2Proof.Proofs

open Sys2Proof.Machine Sys2Proof.Laws

/-! ### What the invariant says of a state in a given mode -/

theorem lkPhase_eq_done_of_running {s : State} (hi : Inv s) (hr : s.run = .running) : s.lkPhase = .done :=
  not_not.1 (mt hi.bootPhase.2 (by simp [hr]))

theorem fcause_ne_protocol_of_not_faulted {s : State} (hi : Inv s) (hf : s.run ≠ .faulted) : s.fcause ≠ .protocol :=
  mt hi.faultRecorded.1 hf

/-- 0x00 is no key command, so a held mailbox is a full one. -/
theorem mbox_ne_zero_of_busy {s : State} (hi : Inv s) (hs : s.state ≠ .idle) : s.mbox ≠ 0x00#8 := fun h0 =>
  absurd (h0 ▸ hi.mailboxHeld hs) (by decide)

theorem durationOf_lt {cfg : Config} (h : configOk cfg = true) (c : Byte) : durationOf cfg c < 2 ^ cfg.timerW := by
  obtain ⟨hnormal, hlong, -⟩ := configOk_bounds h
  have := Nat.two_pow_pos cfg.timerW
  unfold durationOf
  split <;> omega

theorem releaseHold_lt {cfg : Config} (h : configOk cfg = true) : cfg.releaseHold < 2 ^ cfg.timerW := by
  obtain ⟨-, -, hhold, -⟩ := configOk_bounds h
  have := Nat.two_pow_pos cfg.timerW
  omega

/-! ### Writes that keep the invariant

Each proof names the clauses that the write touches; every other clause is the one that held before. -/

theorem inv_schedule {s : State} (hi : Inv s) (script : List Move) (clock : Nat) :
    Inv { s with script := script, clock := clock } := { hi with }

theorem inv_emit {s : State} (hi : Inv s) (o : Output) : Inv (emit o s) := { hi with }

theorem inv_presentWord {s : State} (hi : Inv s) (w : EvtWord) : Inv (presentWord w s) := by
  obtain ⟨-, h⟩ | ⟨-, h⟩ := presentWord_cases w s <;> rw [h]
  · exact { hi with }
  · exact hi

theorem inv_programPs {s : State} (hi : Inv s) (a : Nat) (b : Byte) : Inv (programPs a b s) := by
  obtain ⟨-, h⟩ | h := programPs_cases a b s <;> rw [h]
  · exact { hi with psForm := writeByte_wf .ps s.ps a b hi.psForm }
  · exact hi

theorem inv_tickCounter {s : State} (hi : Inv s) : Inv (tickCounter s) := { hi with tcntWidth := tickedTcnt_lt }

/-- A RESET meets the invariant from any state of a legal configuration (70_reset_and_hazards.md R139). -/
theorem inv_resetStep {s : State} (hcfg : configOk s.cfg = true) (hps : Memory.wf .ps s.ps = true) :
    Inv (resetStep s) where
  config := hcfg
  psForm := hps
  dsForm := empty_wf .ds
  tcntWidth := Nat.mod_lt _ (Nat.two_pow_pos _)
  deadlineWidth := Nat.mod_lt _ (Nat.two_pow_pos _)
  blinkBelowEnd := by
    obtain ⟨-, -, -, -, hend, -⟩ := configOk_bounds hcfg
    simp only [resetStep_blink, resetStep_cfg]
    omega
  lkIdxRange := Nat.zero_le _
  lkBestScanned := nofun
  fetchHasCandidate := nofun
  doneScannedAll := nofun
  bootPhase := by simp
  eventEnable := by simp
  faultRecorded := by simp
  noFaultNoStatus := fun _ => rfl
  mailboxHeld := fun h => absurd rfl h
  keyReleased := fun _ => rfl
  keyPressed := nofun
  pressDeadline := nofun
  holdDeadline := nofun
  bootQuiet := fun _ => ⟨rfl, rfl, rfl, rfl⟩
  rebootHeld := nofun

/-! ### The lookup engine -/

theorem inv_scannedCell {s : State} (hi : Inv s) (hp : s.lkPhase = .scan) (hlt : s.lkIdx < s.cfg.nCells) (b : Byte) :
    Inv (scannedCell b s) :=
  { hi with
    lkIdxRange := hlt
    lkBestScanned := fun i h => by
      rw [scannedCell_lkBest] at h
      split at h
      · cases h; exact Nat.lt_succ_self _
      · exact Nat.lt_succ_of_lt (hi.lkBestScanned i h)
    fetchHasCandidate := fun h => nomatch hp.symm.trans h
    doneScannedAll := fun h => nomatch hp.symm.trans h }

theorem inv_lkPhase_fetch {s : State} (hi : Inv s) (hb : s.run = .boot) (hidx : s.lkIdx = s.cfg.nCells)
    (hbest : s.lkBest ≠ none) : Inv { s with lkPhase := .fetch } :=
  { hi with
    fetchHasCandidate := fun _ => ⟨hidx, hbest⟩
    doneScannedAll := nofun
    bootPhase := iff_of_true hb nofun }

theorem inv_enterRunning {s : State} (hi : Inv s) (hb : s.run = .boot) (hidx : s.lkIdx = s.cfg.nCells) (a : Byte) :
    Inv (enterRunning { s with addr := a }) :=
  have hf : s.run ≠ .faulted := by simp [hb]
  have hcause : s.fcause ≠ .protocol := fcause_ne_protocol_of_not_faulted hi hf
  { hi with
    fetchHasCandidate := nofun
    doneScannedAll := fun _ => hidx
    bootPhase := by simp
    eventEnable := by simp
    faultRecorded := iff_of_false hcause nofun
    noFaultNoStatus := fun _ => hi.noFaultNoStatus hf
    bootQuiet := nofun
    rebootHeld := nofun }

theorem lkStep_keeps_inv {s t : State} (hi : Inv s) (h : lkStep s = .next t) : Inv t := by
  obtain ⟨-, hp, hlt, rfl⟩ | ⟨hb, -, hidx, -, rfl⟩ | ⟨hb, -, hidx, hbest, rfl⟩ | ⟨i, hb, hp, -, -, rfl⟩ | ⟨-, -, rfl⟩ :=
    lkStep_next h
  · exact inv_scannedCell (inv_emit hi _) hp hlt _
  · exact inv_enterRunning hi hb hidx _
  · exact inv_lkPhase_fetch hi hb hidx hbest
  · exact inv_enterRunning (inv_emit hi _) hb (hi.fetchHasCandidate hp).1 _
  · exact hi

/-! ### The receiver -/

/-- The receiver's own registers and the ports are under no clause of a RUNNING state. -/
theorem inv_receiver {s : State} (hi : Inv s) (hr : s.run = .running) (evtIn : Option EvtWord) (rxack : Bool)
    (txdata : Byte) (trace : List Output) :
    Inv { s with evtIn := evtIn, rxack := rxack, txdata := txdata, trace := trace } :=
  { hi with bootQuiet := fun hb => nomatch hr.symm.trans hb }

/-- An EV_DATA_RX fills MBOX only when it is empty, so never while the sequencer holds a command. -/
theorem inv_mbox_filled {s : State} (hi : Inv s) (hr : s.run = .running) (b : Byte) :
    Inv { s with mbox := if s.mbox = 0x00#8 then b else s.mbox } := by
  by_cases h0 : s.mbox = 0x00#8
  · have hs : s.state = .idle := not_not.1 fun hs => mbox_ne_zero_of_busy hi hs h0
    exact { hi with
      mailboxHeld := fun h => absurd hs h
      keyPressed := fun h => nomatch hs.symm.trans h
      pressDeadline := fun h => nomatch hs.symm.trans h
      bootQuiet := fun hb => nomatch hr.symm.trans hb
      rebootHeld := fun hb => nomatch hr.symm.trans hb }
  · rwa [if_neg h0]

theorem inv_raiseProtocolFault {s : State} (hi : Inv s) (hr : s.run = .running) (status : Byte) :
    Inv (raiseProtocolFault status s) :=
  { hi with
    bootPhase := by simp [lkPhase_eq_done_of_running hi hr]
    eventEnable := by simp
    faultRecorded := by simp
    noFaultNoStatus := fun h => absurd rfl h
    bootQuiet := nofun
    rebootHeld := nofun }

theorem eventStep_keeps_inv {s t : State} (hi : Inv s) (h : eventStep s = .next t) : Inv t := by
  obtain ⟨-, rfl⟩ | ⟨hr, -, p, ⟨-, rfl⟩ | ⟨-, rfl⟩ | ⟨-, rfl⟩ | ⟨-, rfl⟩ | ⟨-, rfl⟩⟩ := eventStep_next h
  · exact hi
  · exact inv_receiver hi hr _ _ _ _
  · exact inv_receiver (inv_mbox_filled hi hr p) hr _ _ _ _
  · exact inv_receiver hi hr _ _ _ _
  · exact inv_receiver hi hr _ _ _ _
  · exact inv_raiseProtocolFault (inv_receiver hi hr none _ _ _) hr p

/-! ### The pass -/

/-- The next count of the blink step never wraps: BLINK is below BLINK_END, which a BLINK_W-bit register holds. -/
theorem blinkStep_blink_lt {s : State} (hi : Inv s) : (blinkStep s).blink < s.cfg.blinkEnd := by
  obtain ⟨-, -, -, -, hend, hwidth⟩ := configOk_bounds hi.config
  have hblink := hi.blinkBelowEnd
  obtain ⟨-, h⟩ | ⟨-, h⟩ := blinkStep_cases s
  · rwa [h]
  · have hmod : (s.blink + 1) % 2 ^ s.cfg.blinkW = s.blink + 1 := Nat.mod_eq_of_lt (by omega)
    simp only [h, hmod]
    split <;> omega

theorem inv_blinkStep {s : State} (hi : Inv s) (hr : s.run = .running) : Inv (blinkStep s) := by
  rw [blinkStep_eq]
  exact { hi with
    blinkBelowEnd := blinkStep_blink_lt hi
    bootQuiet := fun hb => nomatch hr.symm.trans hb }

section Arms

variable {s : State} (hi : Inv s) (hr : s.run = .running)
include hi hr

/-- MBOX is cleared only as STATE becomes or stays IDLE, with KEY released. -/
theorem inv_mbox_cleared (hs : s.state ≠ .pressing) : Inv { s with mbox := 0x00#8, state := .idle } :=
  { hi with
    mailboxHeld := fun h => absurd rfl h
    keyReleased := fun _ => hi.keyReleased hs
    keyPressed := nofun
    pressDeadline := nofun
    holdDeadline := nofun
    bootQuiet := fun hb => nomatch hr.symm.trans hb
    rebootHeld := fun hb => nomatch hr.symm.trans hb }

theorem inv_blink_started : Inv { s with blink := 1 } :=
  { hi with
    blinkBelowEnd := by
      obtain ⟨-, -, -, -, hend, -⟩ := configOk_bounds hi.config
      exact hend
    bootQuiet := fun hb => nomatch hr.symm.trans hb }

theorem inv_rebooting (hs : s.state = .idle) (hm : s.mbox = 0x02#8) {ds : Memory} (hds : Memory.wf .ds ds = true)
    (trace : List Output) : Inv { s with ie := false, run := .rebooting, ds := ds, trace := trace } :=
  have hf : s.run ≠ .faulted := by simp [hr]
  have hcause : s.fcause ≠ .protocol := fcause_ne_protocol_of_not_faulted hi hf
  { hi with
    dsForm := hds
    bootPhase := by simp [lkPhase_eq_done_of_running hi hr]
    eventEnable := by simp
    faultRecorded := iff_of_false hcause nofun
    noFaultNoStatus := fun _ => hi.noFaultNoStatus hf
    bootQuiet := nofun
    rebootHeld := fun _ => ⟨hs, hm⟩ }

theorem inv_key_pressed (hk : isKeyCommand s.mbox = true) :
    Inv { s with
      state := .pressing, key := keyCodeOf s.cfg s.mbox, deadline := durationOf s.cfg s.mbox, tcnt := 0, tov := false } :=
  { hi with
    tcntWidth := Nat.two_pow_pos _
    deadlineWidth := durationOf_lt hi.config _
    mailboxHeld := fun _ => hk
    keyReleased := fun h => absurd rfl h
    keyPressed := fun _ => rfl
    pressDeadline := fun _ => rfl
    holdDeadline := nofun
    bootQuiet := fun hb => nomatch hr.symm.trans hb
    rebootHeld := fun hb => nomatch hr.symm.trans hb }

theorem inv_key_released (hs : s.state = .pressing) :
    Inv { s with key := 0x00#8, tcnt := 0, tov := false, deadline := s.cfg.releaseHold, state := .releasing } :=
  { hi with
    tcntWidth := Nat.two_pow_pos _
    deadlineWidth := releaseHold_lt hi.config
    mailboxHeld := fun _ => hi.mailboxHeld (by simp [hs])
    keyReleased := fun _ => rfl
    keyPressed := nofun
    pressDeadline := nofun
    holdDeadline := fun _ => rfl
    bootQuiet := fun hb => nomatch hr.symm.trans hb
    rebootHeld := fun hb => nomatch hr.symm.trans hb }

end Arms

theorem passStep_keeps_inv {s t : State} (hi : Inv s) (h : passStep s = .next t) : Inv t := by
  obtain ⟨-, -, rfl⟩ | ⟨hr, hs, harm⟩ | ⟨hr, -, -, rfl⟩ | ⟨hr, hs, -, rfl⟩ | ⟨hr, hs, -, rfl⟩ := passStep_next h
  · exact hi
  all_goals
    have hbi : Inv (blinkStep s) := inv_blinkStep hi hr
    have hbr : (blinkStep s).run = .running := by simpa using hr
  · obtain ⟨-, rfl⟩ | ⟨-, rfl⟩ | ⟨hm, rfl⟩ | ⟨hk, rfl⟩ | ⟨-, rfl⟩ := harm
    · exact hbi
    · simpa [hs] using inv_blink_started (inv_mbox_cleared hbi hbr (by simp [hs])) hbr
    · exact inv_rebooting hbi hbr (by simpa using hs) (by simpa using hm) (dsMemWrite_wf _ _ _ hi.dsForm) _
    · simpa using inv_key_pressed hbi hbr (by simpa using hk)
    · simpa [hs] using inv_mbox_cleared hbi hbr (by simp [hs])
  · exact hbi
  · simpa using inv_key_released hbi hbr (by simpa using hs)
  · exact inv_mbox_cleared hbi hbr (by simp [hs])

/-! ### Every move, every step, every run -/

theorem perform_keeps_inv {m : Move} {s t : State} (hi : Inv s) (h : perform m s = .next t) : Inv t := by
  refine perform_next h ?reset ?lkStep ?event ?pass ?tick ?hidRead ?word ?program
  case reset => rintro - rfl; exact inv_resetStep hi.config hi.psForm
  case lkStep => exact fun _ => lkStep_keeps_inv hi
  case event => exact fun _ => eventStep_keeps_inv hi
  case pass => exact fun _ => passStep_keeps_inv hi
  case tick =>
    intro _ htick
    obtain ⟨-, rfl⟩ | ⟨-, rfl⟩ := tickStep_next htick
    · exact inv_tickCounter hi
    · exact hi
  case hidRead =>
    intro _ hread
    obtain ⟨-, rfl⟩ | ⟨-, -, rfl⟩ := hidReadStep_next hread
    · exact inv_emit hi _
    · exact hi
  case word => rintro w - rfl; exact inv_presentWord hi w
  case program => rintro a b - rfl; exact inv_programPs hi a b

/-- Settles O51: a step is a move from the state but for the model's own schedule, and every move keeps the invariant. -/
theorem stepKeepsTheInvariant : Obligations.StepKeepsTheInvariant := by
  intro s t hi h
  obtain ⟨-, m, script, clock, hm⟩ := step_next h
  exact perform_keeps_inv (inv_schedule hi script clock) hm

end Sys2Proof.Proofs

/-! PROOF. The writers of each register (10_state.md R10): the fields each move may write, and what follows for MBOX (R15). -/

namespace Sys2Proof.Proofs

open Sys2Proof.Machine Sys2Proof.Laws

/-! ### The fields each move may write

Each says that the next state is the old one but for the fields named. -/

theorem lkStep_writes {s t : State} (h : lkStep s = .next t) :
    t = { s with
      lkPhase := t.lkPhase, lkIdx := t.lkIdx, lkBest := t.lkBest, addr := t.addr, run := t.run, ie := t.ie,
      trace := t.trace } := by
  obtain ⟨-, -, -, rfl⟩ | ⟨-, -, -, -, rfl⟩ | ⟨-, -, -, -, rfl⟩ | ⟨i, -, -, -, -, rfl⟩ | ⟨-, -, rfl⟩ := lkStep_next h <;>
    rfl

theorem eventStep_writes {s t : State} (h : eventStep s = .next t) :
    t = { s with
      evtIn := t.evtIn, mbox := t.mbox, rxack := t.rxack, txdata := t.txdata, fcause := t.fcause, fstatus := t.fstatus,
      run := t.run, ie := t.ie, trace := t.trace } := by
  obtain ⟨-, rfl⟩ | ⟨-, -, p, ⟨-, rfl⟩ | ⟨-, rfl⟩ | ⟨-, rfl⟩ | ⟨-, rfl⟩ | ⟨-, rfl⟩⟩ := eventStep_next h <;> rfl

theorem passStep_writes {s t : State} (h : passStep s = .next t) :
    t = { s with
      state := t.state, deadline := t.deadline, key := t.key, blink := t.blink, tcnt := t.tcnt, tov := t.tov,
      mbox := t.mbox, run := t.run, ie := t.ie, ds := t.ds, trace := t.trace } := by
  obtain ⟨-, -, rfl⟩ | ⟨-, -, ⟨-, rfl⟩ | ⟨-, rfl⟩ | ⟨-, rfl⟩ | ⟨-, rfl⟩ | ⟨-, rfl⟩⟩ | ⟨-, -, -, rfl⟩ | ⟨-, -, -, rfl⟩ |
    ⟨-, -, -, rfl⟩ := passStep_next h
  case inl => rfl
  all_goals rw [blinkStep_eq]

theorem tickStep_writes {s t : State} (h : tickStep s = .next t) : t = { s with tcnt := t.tcnt, tov := t.tov } := by
  obtain ⟨-, rfl⟩ | ⟨-, rfl⟩ := tickStep_next h <;> rfl

theorem hidReadStep_writes {s t : State} (h : hidReadStep s = .next t) : t = { s with trace := t.trace } := by
  obtain ⟨-, rfl⟩ | ⟨-, -, rfl⟩ := hidReadStep_next h <;> rfl

theorem presentWord_writes (w : EvtWord) (s : State) :
    presentWord w s = { s with evtIn := (presentWord w s).evtIn } := by
  obtain ⟨-, h⟩ | ⟨-, h⟩ := presentWord_cases w s <;> rw [h]

theorem programPs_writes (a : Nat) (b : Byte) (s : State) : programPs a b s = { s with ps := (programPs a b s).ps } := by
  obtain ⟨-, h⟩ | h := programPs_cases a b s <;> rw [h]

/-- Settles O55: a register that a move's own fields do not list keeps its value, move by move. -/
theorem eachRegisterHasItsWriters : Obligations.EachRegisterHasItsWriters := by
  intro m s t h
  refine perform_next h ?reset ?lkStep ?event ?pass ?tick ?hidRead ?word ?program
  case reset => rintro rfl rfl; simp
  case lkStep => rintro rfl h; rw [lkStep_writes h]; simp
  case event => rintro rfl h; rw [eventStep_writes h]; simp
  case pass => rintro rfl h; rw [passStep_writes h]; simp
  case tick => rintro rfl h; rw [tickStep_writes h]; simp
  case hidRead => rintro rfl h; rw [hidReadStep_writes h]; simp
  case word => rintro w (rfl | ⟨st, d, rfl, -⟩) rfl <;> rw [presentWord_writes] <;> simp
  case program => rintro a b rfl rfl; rw [programPs_writes]; simp

/-- No move changes the configuration (10_state.md R10). -/
theorem perform_keeps_cfg {m : Move} {s t : State} (h : perform m s = .next t) : t.cfg = s.cfg :=
  (eachRegisterHasItsWriters m s t h).1

/-! ### The mailbox -/

theorem eventStep_mbox {s t : State} (h : eventStep s = .next t) (hne : t.mbox ≠ s.mbox) :
    s.mbox = 0x00#8 ∧ s.evtIn = some (evtWordOf 0b001#3 t.mbox) := by
  obtain ⟨-, rfl⟩ | ⟨-, -, p, ⟨-, rfl⟩ | ⟨hw, rfl⟩ | ⟨-, rfl⟩ | ⟨-, rfl⟩ | ⟨-, rfl⟩⟩ := eventStep_next h
  case inr.inr.inl =>
    by_cases h0 : s.mbox = 0x00#8
    · exact ⟨h0, by simp [h0, hw]⟩
    · simp [h0] at hne
  all_goals exact absurd rfl hne

theorem passStep_mbox {s t : State} (h : passStep s = .next t) (hne : t.mbox ≠ s.mbox) :
    t.mbox = 0x00#8 ∧
    ((s.state = .idle ∧ (s.mbox = 0x01#8 ∨ 0x10 ≤ s.mbox.toNat)) ∨
     (s.state = .releasing ∧ t.state = .idle ∧ (s.deadline < s.tcnt ∨ s.tov = true))) := by
  obtain ⟨-, -, rfl⟩ | ⟨-, hs, ⟨-, rfl⟩ | ⟨hm, rfl⟩ | ⟨-, rfl⟩ | ⟨-, rfl⟩ | ⟨hm, rfl⟩⟩ | ⟨-, -, -, rfl⟩ | ⟨-, -, -, rfl⟩ |
    ⟨-, hs, he, rfl⟩ := passStep_next h
  case inr.inl.inr.inl => exact ⟨rfl, .inl ⟨hs, .inl hm⟩⟩
  case inr.inl.inr.inr.inr.inr => exact ⟨rfl, .inl ⟨hs, .inr hm⟩⟩
  case inr.inr.inr.inr => exact ⟨rfl, .inr ⟨hs, rfl, he⟩⟩
  all_goals simp at hne

/-- Settles O54: by the writers of MBOX, the move is an EVENT, a PASS or a RESET, and each writes it as R15 says. -/
theorem mailboxProtocol : Obligations.MailboxProtocol := by
  intro m s t h hne
  obtain ⟨-, -, -, -, hwriters, -⟩ := eachRegisterHasItsWriters m s t h
  obtain rfl | rfl | rfl := hwriters hne
  · obtain ⟨hempty, hword⟩ := eventStep_mbox h hne
    exact .inl ⟨rfl, hempty, hword⟩
  · obtain ⟨hclear, ⟨hs, hm⟩ | ⟨hs, ht, he⟩⟩ := passStep_mbox h hne
    · exact .inr (.inl ⟨rfl, hclear, hs, hm⟩)
    · exact .inr (.inr (.inl ⟨rfl, hclear, hs, ht, he⟩))
  · cases h
    exact .inr (.inr (.inr ⟨rfl, rfl⟩))

end Sys2Proof.Proofs

/-! PROOF. Runs from a RESET: what every move keeps holds at the end of every run. -/

namespace Sys2Proof.Proofs

open Sys2Proof.Machine Sys2Proof.Laws

theorem runMoves_cons_next {m : Move} {ms : List Move} {s t : State} (h : runMoves (m :: ms) s = .next t) :
    ∃ u, perform m s = .next u ∧ runMoves ms u = .next t := by
  unfold runMoves at h
  split at h
  · next u hm => exact ⟨u, hm, h⟩
  · cases h
  · cases h

/-- The induction over runs: a predicate that every move keeps is kept by every list of moves. -/
theorem runMoves_keeps {P : State → Prop} (hmove : ∀ m s t, P s → perform m s = .next t → P t) {ms : List Move}
    {s t : State} (hs : P s) (h : runMoves ms s = .next t) : P t := by
  induction ms generalizing s with
  | nil => cases h; exact hs
  | cons m ms ih =>
    obtain ⟨u, hm, hrest⟩ := runMoves_cons_next h
    exact ih (hmove m s u hs hm) hrest

theorem runMoves_keeps_inv {ms : List Move} {s t : State} (hi : Inv s) (h : runMoves ms s = .next t) : Inv t :=
  runMoves_keeps (fun _ _ _ => perform_keeps_inv) hi h

theorem runMoves_keeps_cfg {ms : List Move} {s t : State} (h : runMoves ms s = .next t) : t.cfg = s.cfg :=
  runMoves_keeps (P := fun u => u.cfg = s.cfg) (fun _ _ _ hu hm => (perform_keeps_cfg hm).trans hu) rfl h

/-- Settles O52: RESET establishes the invariant, every run keeps it and the configuration, and I1 to I4 are its clauses. -/
theorem reachableRunningStatesKeepSequencerRules : Obligations.ReachableRunningStatesKeepSequencerRules := by
  intro s t ms hcfg hps h _
  obtain ⟨u, hreset, hrun⟩ := runMoves_cons_next h
  cases hreset
  have hi : Inv t := runMoves_keeps_inv (inv_resetStep hcfg hps) hrun
  have hc : t.cfg = s.cfg := (runMoves_keeps_cfg hrun).trans (resetStep_cfg s)
  exact ⟨fun hs => (isKeyCommand_iff _).1 (hi.mailboxHeld hs), hi.keyReleased, fun hs => hc ▸ hi.keyPressed hs,
    fun h0 => not_not.1 fun hs => mbox_ne_zero_of_busy hi hs h0⟩

end Sys2Proof.Proofs

/-! PROOF. The overflow flag (10_state.md R17, 70_reset_and_hazards.md R151). -/

namespace Sys2Proof.Proofs

open Sys2Proof.Machine Sys2Proof.Laws

theorem tickedTov_of_true (cfg : Config) (tcnt : Nat) : tickedTov cfg tcnt true = true := ite_self _

theorem ticks_tov_of_tov {s : State} (h : s.tov = true) (k : Nat) : (ticks k s).tov = true := by
  induction k with
  | zero => exact h
  | succ k ih => rw [ticks, tickCounter_tov, ih, tickedTov_of_true]

/-- Settles O42: TOV stays set by induction on the ticks, and TOV alone makes the deadline expired. -/
theorem overflowStaysUntilCounterReset : Obligations.OverflowStaysUntilCounterReset := fun s k h =>
  have htov : (ticks k s).tov = true := ticks_tov_of_tov h k
  ⟨htov, (expired_iff _).2 (.inr htov), resetCounter_tov _⟩

end Sys2Proof.Proofs

/-! PROOF. The memories: what MemWrite does (20_memory.md R42), and who writes PS and DS (R34, R36, R37). -/

namespace Sys2Proof.Proofs

open Sys2Proof.Machine Sys2Proof.Laws

/-- Settles O26: the laws of MemWrite inside its bytes, outside them, and for the canonical form. -/
theorem memWriteWritesExactlyItsBytes : Obligations.MemWriteWritesExactlyItsBytes := fun ds addr bytes =>
  ⟨readByte_dsMemWrite_inside bytes ds addr, fun a => readByte_dsMemWrite_outside bytes ds addr a,
    dsMemWrite_wf bytes ds addr⟩

/-- The last of the writers of each register (10_state.md R10), for PS and DS. -/
theorem perform_memory_writers {m : Move} {s t : State} (h : perform m s = .next t) :
    (t.ps ≠ s.ps → ∃ a b, m = .program a b) ∧ (t.ds ≠ s.ds → m = .pass ∨ m = .reset) := by
  obtain ⟨-, -, -, -, -, -, -, -, hps, hds⟩ := eachRegisterHasItsWriters m s t h
  exact ⟨hps, hds⟩

theorem programPs_ps_of_boot {s : State} (hb : s.run = .boot) (a : Nat) (b : Byte) : (programPs a b s).ps = s.ps := by
  obtain ⟨hr, -⟩ | h := programPs_cases a b s
  · exact absurd hb hr
  · rw [h]

theorem perform_ps_of_boot {m : Move} {s t : State} (h : perform m s = .next t) (hb : s.run = .boot) : t.ps = s.ps := by
  by_contra hne
  obtain ⟨a, b, rfl⟩ := (perform_memory_writers h).1 hne
  cases h
  exact hne (programPs_ps_of_boot hb a b)

/-- Of the arms of a PASS only dispatching 0x02 writes DS (42_command_dispatch.md R87). -/
theorem passStep_ds {s t : State} (h : passStep s = .next t) (hne : t.ds ≠ s.ds) :
    s.state = .idle ∧ s.mbox = 0x02#8 ∧ t.run = .rebooting := by
  obtain ⟨-, -, rfl⟩ | ⟨-, hs, ⟨-, rfl⟩ | ⟨-, rfl⟩ | ⟨hm, rfl⟩ | ⟨-, rfl⟩ | ⟨-, rfl⟩⟩ | ⟨-, -, -, rfl⟩ | ⟨-, -, -, rfl⟩ |
    ⟨-, -, -, rfl⟩ := passStep_next h
  case inr.inl.inr.inr.inl => exact ⟨hs, hm, rfl⟩
  all_goals simp at hne

/-- Settles O56: by the writers of PS and DS, the guard on programming, and the one arm of a PASS that writes DS. -/
theorem memoriesAreWrittenOnlyAsStated : Obligations.MemoriesAreWrittenOnlyAsStated := by
  intro m s t h
  obtain ⟨hps, hds⟩ := perform_memory_writers h
  refine ⟨fun hm => ?_, perform_ps_of_boot h, fun hm hne => ?_⟩
  · by_contra hne
    obtain ⟨a, b, rfl⟩ := hps hne
    exact hm a b rfl
  · obtain rfl | rfl := hds hne
    · exact ⟨rfl, passStep_ds h hne⟩
    · exact absurd rfl hm

end Sys2Proof.Proofs

/-! PROOF. The encoding tables (30_encoding.md): words written out, the two readings of a command byte, the event classes,
and the operands of the key commands. -/

namespace Sys2Proof.Proofs

open Sys2Proof.Machine Sys2Proof.Laws

/-! ### The words of the two tables (R50, R51, R54) -/

theorem decodeTableWord_cmd (c : Byte) : decodeTableWord 8 c.toNat = some (decodeCmd c) := by
  rw [decodeTableWord, if_neg c.isLt.not_ge, if_pos le_rfl, BitVec.ofNat_toNat, BitVec.setWidth_eq]
  rfl

/-- The bits of the second byte that an 11-bit word has no place for. -/
theorem highBits_eq_zero_iff {w : Nat} (hw : w < 2 ^ 16) :
    (BitVec.ofNat 8 (w / 256)).extractLsb' 3 5 = 0#5 ↔ w < 2 ^ 11 := by
  rw [← BitVec.toNat_inj, BitVec.extractLsb'_toNat, BitVec.toNat_ofNat, BitVec.toNat_ofNat, Nat.shiftRight_eq_div_pow]
  omega

/-- The two bytes of an 11-bit word carry it. -/
theorem evtOfBytes_ofNat (w : EvtWord) :
    evtOfBytes (BitVec.ofNat 8 w.toNat) (BitVec.ofNat 8 (w.toNat / 256)) = w := by
  have hw := w.isLt
  apply BitVec.eq_of_toNat_eq
  rw [evtOfBytes, BitVec.toNat_append, BitVec.extractLsb'_toNat, BitVec.toNat_ofNat, BitVec.toNat_ofNat,
    ← Nat.shiftLeft_add_eq_or_of_lt (Nat.mod_lt _ (by decide)), Nat.shiftLeft_eq, Nat.shiftRight_zero]
  omega

theorem decodeTableWord_evt (w : EvtWord) : decodeTableWord 16 w.toNat = some (decodeEvt w) := by
  have hw : w.toNat < 2 ^ 16 := w.isLt.trans (by decide)
  rw [decodeTableWord, if_neg hw.not_ge, if_neg (by decide), if_pos le_rfl, decode,
    if_pos ((highBits_eq_zero_iff hw).2 w.isLt), evtOfBytes_ofNat]
  rfl

theorem decodeTableWord_evt_eq_none {w : Nat} (hw : w < 2 ^ 16) (h : 2 ^ 11 ≤ w) : decodeTableWord 16 w = none := by
  rw [decodeTableWord, if_neg hw.not_ge, if_neg (by decide), if_pos le_rfl, decode,
    if_neg (mt (highBits_eq_zero_iff hw).1 h.not_gt)]
  rfl

/-- Settles O1: a byte is read as its command, an 11-bit word as its event, and a set bit 11 is refused. -/
theorem tableWordsDecode : Obligations.TableWordsDecode :=
  ⟨decodeTableWord_cmd 0x00#8, decodeTableWord_cmd 0x01#8, decodeTableWord_cmd 0x02#8, decodeTableWord_cmd 0x0D#8,
    decodeTableWord_cmd 0x0E#8, decodeTableWord_cmd 0x10#8, decodeTableWord_evt 0x107#11, decodeTableWord_evt 0x255#11,
    decodeTableWord_evt 0x6F8#11, decodeTableWord_evt 0x7AB#11, decodeTableWord_evt_eq_none (by decide) (by decide)⟩

/-! ### The command table and the bit tests (R51, R52)

A byte below 0x10 is one of sixteen; from 0x10 on both readings answer CMD_IGN. -/

theorem byte_low_or_high (c : Byte) : (∃ n : Fin 16, c = BitVec.ofNat 8 n) ∨ 0x10 ≤ c.toNat := by
  obtain h | h := Nat.lt_or_ge c.toNat 0x10
  · exact .inl ⟨⟨c.toNat, h⟩, by simp⟩
  · exact .inr h

theorem highNibble_ne_zero {c : Byte} (h : 0x10 ≤ c.toNat) : c.extractLsb' 4 4 ≠ 0b0000#4 := by
  have hc := c.isLt
  rw [BitVec.toNat_ne, BitVec.extractLsb'_toNat, BitVec.toNat_ofNat, Nat.shiftRight_eq_div_pow]
  omega

theorem cmdClassByBits_of_ge {c : Byte} (h : 0x10 ≤ c.toNat) : cmdClassByBits c = .ign :=
  if_pos (highNibble_ne_zero h)

theorem decodeCmd_of_ge {c : Byte} (h : 0x10 ≤ c.toNat) : decodeCmd c = .cmdIgn c := by
  obtain ⟨rfl, -⟩ | ⟨rfl, -⟩ | ⟨rfl, -⟩ | ⟨hkey, -⟩ | ⟨-, -, hign, -⟩ := exec_decodeCmd_cases c
  case inr.inr.inr.inr => exact hign
  case inr.inr.inr.inl =>
    have := (isKeyCommand_iff c).1 hkey
    omega
  all_goals exact absurd h (by decide)

theorem cmdClassOf_decodeCmd (c : Byte) : cmdClassOf (decodeCmd c) = some (cmdClassByBits c) := by
  obtain ⟨n, rfl⟩ | h := byte_low_or_high c
  · revert n; decide
  · rw [decodeCmd_of_ge h, cmdClassByBits_of_ge h, cmdClassOf]

theorem cmdClassByBits_eq_lkey_iff (c : Byte) : cmdClassByBits c = .lkey ↔ c = 0x0E#8 ∨ c = 0x0F#8 := by
  obtain ⟨n, rfl⟩ | h := byte_low_or_high c
  · revert n; decide
  · rw [cmdClassByBits_of_ge h]
    refine iff_of_false nofun ?_
    rintro (rfl | rfl) <;> exact absurd h (by decide)

theorem cmdClassByBits_eq_key_iff (c : Byte) : cmdClassByBits c = .key ↔ 0x03 ≤ c.toNat ∧ c.toNat ≤ 0x0D := by
  obtain ⟨n, rfl⟩ | h := byte_low_or_high c
  · revert n; decide
  · rw [cmdClassByBits_of_ge h]
    exact iff_of_false nofun (by omega)

theorem durationOf_of_lkey (cfg : Config) {c : Byte} (h : cmdClassByBits c = .lkey) :
    durationOf cfg c = cfg.pressLong := by
  obtain rfl | rfl := (cmdClassByBits_eq_lkey_iff c).1 h <;> rfl

theorem durationOf_of_key (cfg : Config) {c : Byte} (h : cmdClassByBits c = .key) :
    durationOf cfg c = cfg.pressNormal :=
  if_pos ((cmdClassByBits_eq_key_iff c).1 h).2

/-- Settles O4: the sixteen low bytes one by one, every other byte by its high nibble. -/
theorem commandClassByBitTests : Obligations.CommandClassByBitTests := fun c =>
  ⟨cmdClassOf_decodeCmd c, cmdClassByBits_eq_lkey_iff c, cmdClassByBits_eq_key_iff c,
    fun cfg => ⟨durationOf_of_lkey cfg, durationOf_of_key cfg⟩⟩

/-! ### The event classes (R55, R57) -/

/-- The reserved class means what EV_OTHER means (R57). -/
theorem exec_evReserved7 (p : Byte) (s : State) : exec (.evReserved7 p) s = exec (.evOther p) s := rfl

/-- Settles O5: each class by its decoding, and the reserved one by its meaning. -/
theorem eventClassesDecode : Obligations.EventClassesDecode := by
  intro p
  obtain ⟨haddrRx, hdataRx, hdataNack, hstop, haddrTx, hbusErr, hother, hreserved⟩ := decodeEvt_evtWordOf p
  exact ⟨haddrRx, hdataRx, hdataNack, hstop, haddrTx, hbusErr, hother, fun s => hreserved ▸ exec_evReserved7 p s⟩

/-! ### The operands of the key commands (R53) -/

theorem toNat_keyCommand (k : Fin 13) : (BitVec.ofNat 8 (3 + k.val)).toNat = 3 + k.val :=
  Nat.mod_eq_of_lt (by omega)

theorem keyCodeOf_keyCommand (cfg : Config) (k : Fin 13) :
    keyCodeOf cfg (BitVec.ofNat 8 (3 + k.val)) = cfg.keyCode[k] := by
  have hkey : isKeyCommand (BitVec.ofNat 8 (3 + k.val)) = true := by
    rw [isKeyCommand_iff, toNat_keyCommand]
    omega
  simp only [keyCodeOf, hkey, if_true, toNat_keyCommand, Nat.add_sub_cancel_left, k.isLt, dite_true, Fin.getElem_fin]

theorem durationOf_keyCommand (cfg : Config) (k : Fin 13) :
    durationOf cfg (BitVec.ofNat 8 (3 + k.val)) = if k.val ≤ 10 then cfg.pressNormal else cfg.pressLong := by
  rw [durationOf, toNat_keyCommand]
  exact if_congr (by omega) rfl rfl

/-- Settles O30: command 3 + k stands at entry k, and 0x0D is the command of entry 10. -/
theorem keyCommandOperands : Obligations.KeyCommandOperands := fun cfg k =>
  ⟨keyCodeOf_keyCommand cfg k, durationOf_keyCommand cfg k⟩

end Sys2Proof.Proofs

/-! PROOF. The address lookup (40_address_lookup.md): what each LK_STEP answers (R62 to R64), what the boot as a whole computes
(R66 to R68), and the moves that wait because their step is not enabled. -/

namespace Sys2Proof.Proofs

open Sys2Proof.Machine Sys2Proof.Laws

/-! ### One step of the engine

The converses of `lkStep_next`: what the engine does answer in each of its cases. -/

theorem lkStep_scan {s : State} (hb : s.run = .boot) (hp : s.lkPhase = .scan) (hlt : s.lkIdx < s.cfg.nCells) :
    lkStep s = .next (scannedCell (tableImage s s.lkIdx) (emit (.psRead (indAddr s.cfg s.lkIdx)) s)) := by
  simp only [lkStep, if_pos hb, hp, if_pos hlt, lkScanCell, psMemRead_eq, if_pos (inTable_indAddr hlt)]
  rfl

theorem lkStep_scan_end {s : State} (hb : s.run = .boot) (hp : s.lkPhase = .scan) (hidx : s.lkIdx = s.cfg.nCells) :
    lkStep s = .next (lkEndScan s) := by
  simp only [lkStep, if_pos hb, hp, if_neg hidx.not_lt, if_pos hidx]

theorem lkStep_fetch {s : State} {i : Nat} (hb : s.run = .boot) (hp : s.lkPhase = .fetch) (hbest : s.lkBest = some i)
    (hlt : i < s.cfg.nCells) :
    lkStep s = .next (enterRunning
      { emit (.psRead (valAddr s.cfg i)) s with addr := tableImage s (s.cfg.nCells + i) }) := by
  have hread : psMemRead s (valAddr s.cfg i) = some (tableImage s (s.cfg.nCells + i)) := by
    rw [psMemRead_eq, if_pos (inTable_valAddr hlt), tableImage, valAddr, Nat.add_assoc]
  simp only [lkStep, if_pos hb, hp, lkFetch, hbest, hread]

theorem lkStep_not_enabled {s : State} (h : s.run ≠ .boot ∨ s.lkPhase = .done) : lkStep s = notEnabled s := by
  by_cases hb : s.run = .boot
  · have hp : s.lkPhase = .done := h.resolve_left (not_not.2 hb)
    simp only [lkStep, if_pos hb, hp]
  · exact if_neg hb

theorem lkEndScan_none {s : State} (hbest : s.lkBest = none) :
    lkEndScan s = enterRunning { s with addr := s.cfg.defaultAddr } := by
  simp only [lkEndScan, hbest]

theorem lkEndScan_some {s : State} (hbest : s.lkBest ≠ none) : lkEndScan s = { s with lkPhase := .fetch } := by
  obtain ⟨i, hi⟩ := Option.ne_none_iff_exists'.1 hbest
  simp only [lkEndScan, hi]

theorem activeIndicator_iff (b : Byte) : activeIndicator b = true ↔ b ≠ 0x00#8 ∧ b ≠ 0xFF#8 := by
  simp only [activeIndicator, Bool.and_eq_true, bne_iff_ne]

/-- Settles O45: the step is a scan of one cell, whose test of the indicator reads as R61. -/
theorem scanStepResult : Obligations.ScanStepResult := by
  intro s hb hp hlt
  rw [perform, lkStep_scan hb hp hlt]
  simp only [scannedCell, activeIndicator_iff]
  rfl

/-- Settles O46: the end of the scan by whether there is a candidate. -/
theorem endOfScanResult : Obligations.EndOfScanResult := by
  intro s hb hp hidx
  have hstep : perform .lkStep s = .next (lkEndScan s) := lkStep_scan_end hb hp hidx
  constructor
  · intro hbest
    rw [hstep, lkEndScan_none hbest, enterRunning]
  · intro hbest
    rw [hstep, lkEndScan_some hbest]

/-- Settles O47: the fetch of the winner's value byte, then the end of the boot. -/
theorem fetchResult : Obligations.FetchResult := fun _ _ hb hp hbest hlt => lkStep_fetch hb hp hbest hlt

/-! ### Steps that are not enabled -/

theorem exec_event_not_enabled (w : EvtWord) {s : State} (h : s.run ≠ .running ∨ s.ie = false) :
    exec (decodeEvt w) s = notEnabled s := by
  have hnot : ¬(s.run = .running ∧ s.ie = true) := by simpa only [not_and_or, Bool.not_eq_true] using h
  have hwait : ∀ arm, takeEvent arm s = notEnabled s := fun arm => takeEvent_disabled arm hnot
  obtain ⟨p, ⟨-, hd⟩ | ⟨-, hd⟩ | ⟨-, hd⟩ | ⟨-, hd⟩ | ⟨-, hd⟩ | ⟨-, hd⟩ | ⟨-, hd⟩ | ⟨-, hd⟩⟩ := decodeEvt_cases w <;>
    simp only [hd, exec, execEvAddrRx, execEvDataRx, execEvDataNack, execEvStop, execEvAddrTx, execEvBusErr, execEvOther,
      execEvReserved7, hwait]

theorem eventStep_not_enabled {s : State} (h : s.run ≠ .running ∨ s.ie = false ∨ s.evtIn = none) :
    eventStep s = notEnabled s := by
  cases he : s.evtIn with
  | none => simp only [eventStep, he]
  | some w =>
    have hoff : s.run ≠ .running ∨ s.ie = false := by simpa only [he, reduceCtorEq, or_false] using h
    simp only [eventStep, he, exec_event_not_enabled w hoff]

theorem tickStep_rebooting {s : State} (h : s.run = .rebooting) : tickStep s = notEnabled s := by
  simp only [tickStep, h]

theorem hidReadStep_not_running {s : State} (h : s.run ≠ .running) : hidReadStep s = notEnabled s := if_neg h

/-- Settles O44: each of the moves is then the step that is not enabled, which changes nothing outside FAULTED. -/
theorem disabledMovesChangeNothing : Obligations.DisabledMovesChangeNothing := by
  intro s hf
  have hsame : notEnabled s = .next s := notEnabled_of_not_faulted hf
  exact ⟨fun h => (lkStep_not_enabled h).trans hsame,
    fun h => ⟨(passStep_not_running h).trans hsame, (hidReadStep_not_running h).trans hsame⟩,
    fun h => (tickStep_rebooting h).trans hsame, fun h => (eventStep_not_enabled h).trans hsame⟩

/-! ### The winner of the table (R66) -/

theorem lt_of_mem_activeCells {T : Nat → Byte} {n i : Nat} (h : i ∈ activeCells T n) : i < n :=
  List.mem_range.1 (List.mem_filter.1 h).1

theorem lt_of_max?_activeCells {T : Nat → Byte} {n i : Nat} (h : (activeCells T n).max? = some i) : i < n :=
  lt_of_mem_activeCells (List.max?_mem h)

/-- One more cell is the winner if it is active, and else changes nothing: the scan's rule for LK_BEST (R62). -/
theorem max?_activeCells_succ (T : Nat → Byte) (n : Nat) :
    (activeCells T (n + 1)).max? = if activeIndicator (T n) then some n else (activeCells T n).max? := by
  have hsucc : activeCells T (n + 1) = activeCells T n ++ if activeIndicator (T n) then [n] else [] := by
    rw [activeCells, List.range_succ, List.filter_append, List.filter_cons, List.filter_nil, activeCells]
  rw [hsucc]
  split
  · rw [List.max?_eq_some_iff]
    refine ⟨by simp, fun i hi => ?_⟩
    obtain hi | hi := List.mem_append.1 hi
    · exact (lt_of_mem_activeCells hi).le
    · exact (List.mem_singleton.1 hi).le
  · rw [List.append_nil]

/-! ### The scan (R67)

The boot is followed through the state the scan has reached after k cells, a closed form in which LK_BEST is the winner
among them. -/

/-- The state after a scan of the first k cells. -/
def afterScan (k : Nat) (s : State) : State :=
  { s with
    lkIdx := k
    lkBest := (activeCells (tableImage s) k).max?
    trace := s.trace ++ (List.range k).map fun i => Output.psRead (s.cfg.tableBase + i) }

theorem afterScan_zero {s : State} (hidx : s.lkIdx = 0) (hbest : s.lkBest = none) : afterScan 0 s = s :=
  calc afterScan 0 s
    _ = { s with lkIdx := 0, lkBest := none, trace := s.trace ++ [] } := rfl
    _ = s := by rw [List.append_nil, ← hidx, ← hbest]

/-- An LK_STEP takes the scan of k cells to the scan of k + 1. -/
theorem perform_lkStep_afterScan {s : State} {k : Nat} (hb : s.run = .boot) (hp : s.lkPhase = .scan)
    (hlt : k < s.cfg.nCells) : perform .lkStep (afterScan k s) = .next (afterScan (k + 1) s) :=
  calc perform .lkStep (afterScan k s)
    _ = .next (scannedCell (tableImage s k) (emit (.psRead (indAddr s.cfg k)) (afterScan k s))) :=
      lkStep_scan (s := afterScan k s) hb hp hlt
    _ = .next (afterScan (k + 1) s) := by
      simp only [scannedCell, emit, afterScan, indAddr, max?_activeCells_succ, List.range_succ, List.map_append,
        List.map_cons, List.map_nil, List.append_assoc]

theorem runMoves_replicate_succ {m : Move} {k : Nat} {s t u : State}
    (h : runMoves (List.replicate k m) s = .next t) (hm : perform m t = .next u) :
    runMoves (List.replicate (k + 1) m) s = .next u := by
  simp only [List.replicate_succ', runMoves_append, h, runMoves, hm]

theorem runMoves_scan {s : State} (hb : s.run = .boot) (hp : s.lkPhase = .scan) (hidx : s.lkIdx = 0)
    (hbest : s.lkBest = none) {k : Nat} (hk : k ≤ s.cfg.nCells) :
    runMoves (List.replicate k .lkStep) s = .next (afterScan k s) := by
  induction k with
  | zero => rw [afterScan_zero hidx hbest]; rfl
  | succ k ih => exact runMoves_replicate_succ (ih (Nat.le_of_succ_le hk)) (perform_lkStep_afterScan hb hp hk)

/-- Settles O48: the scan of all cells leaves the winner in LK_BEST; without one the next step ends the boot, with one the
next two do. -/
theorem lookupResolvesTheTable : Obligations.LookupResolvesTheTable := by
  intro s hb hp hidx hbest
  have hscan : ∀ {k}, k ≤ s.cfg.nCells → runMoves (List.replicate k .lkStep) s = .next (afterScan k s) :=
    runMoves_scan hb hp hidx hbest
  obtain ⟨hnone, hsome⟩ := endOfScanResult (afterScan s.cfg.nCells s) hb hp rfl
  cases hmax : (activeCells (tableImage s) s.cfg.nCells).max? with
  | none =>
    have hend := runMoves_replicate_succ (hscan le_rfl) (hnone hmax)
    rw [if_pos (List.max?_eq_none_iff.1 hmax)]
    refine ⟨_, hend, by simp only [afterScan, resolve, hmax, List.append_nil], fun k hk => ?_⟩
    exact ⟨_, hscan (Nat.le_of_lt_succ hk), hb⟩
  | some i =>
    have hfetch := runMoves_replicate_succ (hscan le_rfl) (hsome (by simp [afterScan, hmax]))
    have hend := runMoves_replicate_succ hfetch
      (fetchResult _ i hb rfl hmax (lt_of_max?_activeCells hmax))
    have hne : activeCells (tableImage s) s.cfg.nCells ≠ [] := fun hnil => by simp [hnil] at hmax
    rw [if_neg hne]
    refine ⟨_, hend, ?_, fun k hk => ?_⟩
    · simp only [afterScan, resolve, hmax]
      rfl
    · obtain hk | rfl := Nat.lt_succ_iff_lt_or_eq.1 hk
      · exact ⟨_, hscan (Nat.le_of_lt_succ hk), hb⟩
      · exact ⟨_, hfetch, hb⟩

end Sys2Proof.Proofs

/-! PROOF. The two-wire slave receiver (41_bus_slave_receiver.md): what each event does once its word is consumed (R73 to R79),
what it leaves unchanged (R80, R82), and how reject mode ends (R81). -/

namespace Sys2Proof.Proofs

open Sys2Proof.Machine Sys2Proof.Laws

/-! ### The arm of an event -/

/-- What the receiver does for an event after its word is consumed; a command is none of its business. -/
def receiverArm : Instr → State → State
  | .evAddrRx _ | .evDataNack _ | .evStop _ => rearm
  | .evDataRx b => receiveByte b
  | .evAddrTx _ => fun s => rearm { s with txdata := 0xFF#8 }
  | .evBusErr _ => fun s => rearm (emit .stopRecover s)
  | .evOther st | .evReserved7 st => raiseProtocolFault st
  | _ => id

/-- An event word is taken with the arm of its class. -/
theorem exec_decodeEvt (w : EvtWord) (s : State) :
    exec (decodeEvt w) s = takeEvent (receiverArm (decodeEvt w)) s := by
  obtain ⟨p, ⟨-, hd⟩ | ⟨-, hd⟩ | ⟨-, hd⟩ | ⟨-, hd⟩ | ⟨-, hd⟩ | ⟨-, hd⟩ | ⟨-, hd⟩ | ⟨-, hd⟩⟩ := decodeEvt_cases w <;>
    rw [hd] <;> rfl

/-- An enabled event that decodes from some word answers its arm's effect on the state without the word. -/
theorem exec_event_enabled {w : EvtWord} {i : Instr} (hd : decodeEvt w = i) {s : State} (hr : s.run = .running)
    (hi : s.ie = true) : exec i s = .next (receiverArm i { s with evtIn := none }) := by
  rw [← hd, exec_decodeEvt, takeEvent_enabled _ hr hi]

/-! ### The whole next state of each event -/

/-- Settles O11: the arms of the three classes are one. -/
theorem reArmingEventsResult : Obligations.ReArmingEventsResult := by
  intro p s hr hi
  obtain ⟨haddrRx, -, hdataNack, hstop, -⟩ := decodeEvt_evtWordOf p
  exact ⟨exec_event_enabled haddrRx hr hi, exec_event_enabled hdataNack hr hi, exec_event_enabled hstop hr hi, haddrRx,
    hdataNack, hstop⟩

/-- Settles O12: the store by whether MBOX is empty. -/
theorem dataReceivedResult : Obligations.DataReceivedResult := by
  intro b s hr hi
  obtain ⟨-, hd, -⟩ := decodeEvt_evtWordOf b
  have hexec : exec (.evDataRx b) s = .next (receiveByte b { s with evtIn := none }) := exec_event_enabled hd hr hi
  refine ⟨fun hempty => ?_, fun hfull => ?_, hd⟩
  · rw [hexec, receiveByte, if_pos hempty]
  · rw [hexec, receiveByte, if_neg hfull]

/-- Settles O13: the arm puts 0xFF in TXDATA and re-arms. -/
theorem addressedAsTransmitterResult : Obligations.AddressedAsTransmitterResult := by
  intro p s hr hi
  obtain ⟨-, -, -, -, hd, -⟩ := decodeEvt_evtWordOf p
  exact ⟨exec_event_enabled hd hr hi, hd⟩

/-- Settles O14: the arm emits the strobe and re-arms. -/
theorem busErrorResult : Obligations.BusErrorResult := by
  intro p s hr hi
  obtain ⟨-, -, -, -, -, hd, -⟩ := decodeEvt_evtWordOf p
  exact ⟨exec_event_enabled hd hr hi, hd⟩

/-- Settles O15: both classes raise the fault, whose effect is all that the arm does. -/
theorem protocolFaultIsTaken : Obligations.ProtocolFaultIsTaken := by
  intro st s hr hi
  obtain ⟨-, -, -, -, -, -, hother, hreserved⟩ := decodeEvt_evtWordOf st
  refine ⟨?_, hother, hreserved⟩
  simp only [List.forall_mem_cons, List.not_mem_nil, false_imp_iff, implies_true, and_true]
  exact ⟨exec_event_enabled hother hr hi, exec_event_enabled hreserved hr hi⟩

/-- Settles O17: a step that is not enabled changes nothing outside FAULTED. -/
theorem eventWaitsWhileNotEnabled : Obligations.EventWaitsWhileNotEnabled := fun w _ hoff hf =>
  (exec_event_not_enabled w hoff).trans (notEnabled_of_not_faulted hf)

/-! ### The frame of the eight events

First the registers no arm writes, then the classes that alone write each of the others. -/

theorem receiverArm_writes (i : Instr) (s : State) :
    receiverArm i s = { s with
      mbox := (receiverArm i s).mbox, txdata := (receiverArm i s).txdata, rxack := (receiverArm i s).rxack,
      run := (receiverArm i s).run, ie := (receiverArm i s).ie, fcause := (receiverArm i s).fcause,
      fstatus := (receiverArm i s).fstatus, trace := (receiverArm i s).trace } := by
  cases i <;> rfl

theorem receiverArm_mbox {i : Instr} (s : State) (h : ∀ b, i ≠ .evDataRx b) : (receiverArm i s).mbox = s.mbox := by
  cases i with
  | evDataRx b => exact absurd rfl (h b)
  | _ => rfl

theorem receiverArm_txdata {i : Instr} (s : State) (h : ∀ p, i ≠ .evAddrTx p) :
    (receiverArm i s).txdata = s.txdata := by
  cases i with
  | evAddrTx p => exact absurd rfl (h p)
  | _ => rfl

/-- Only the two fatal classes touch the run mode, the event enable and the fault registers (60_exceptions.md R125). -/
theorem receiverArm_mode {i : Instr} (s : State) (h : ∀ p, i ≠ .evOther p ∧ i ≠ .evReserved7 p) :
    (receiverArm i s).run = s.run ∧ (receiverArm i s).ie = s.ie ∧ (receiverArm i s).fcause = s.fcause ∧
    (receiverArm i s).fstatus = s.fstatus := by
  cases i with
  | evOther p => exact absurd rfl (h p).1
  | evReserved7 p => exact absurd rfl (h p).2
  | _ => exact ⟨rfl, rfl, rfl, rfl⟩

theorem receiverArm_rxack_of_fatal {i : Instr} (s : State) (h : ∃ p, i = .evOther p ∨ i = .evReserved7 p) :
    (receiverArm i s).rxack = s.rxack := by
  obtain ⟨p, rfl | rfl⟩ := h <;> rfl

theorem receiverArm_trace {i : Instr} (s : State)
    (h : ∀ p, i ≠ .evOther p ∧ i ≠ .evReserved7 p ∧ i ≠ .evBusErr p) : (receiverArm i s).trace = s.trace := by
  cases i with
  | evOther p => exact absurd rfl (h p).1
  | evReserved7 p => exact absurd rfl (h p).2.1
  | evBusErr p => exact absurd rfl (h p).2.2
  | _ => rfl

/-- Settles O16: an event that waits changes nothing, and one that is taken changes what its arm writes. -/
theorem eventsChangeNothingElse : Obligations.EventsChangeNothingElse := by
  intro w s t h
  rw [exec_decodeEvt] at h
  obtain ⟨-, -, rfl⟩ | ⟨-, -, rfl⟩ := takeEvent_next h
  · rw [receiverArm_writes]
    exact ⟨rfl, rfl, rfl, rfl, rfl, rfl, rfl, rfl, rfl, rfl, rfl, rfl, rfl, rfl, fun _ => rfl, fun _ => rfl,
      receiverArm_mbox _, receiverArm_txdata _, receiverArm_mode _, receiverArm_rxack_of_fatal _, receiverArm_trace _⟩
  · simp

/-! ### The EVENT step -/

theorem eventStep_of_presented {s : State} {w : EvtWord} (he : s.evtIn = some w) :
    eventStep s = exec (decodeEvt w) s := by
  simp only [eventStep, he]

/-- Settles O8: the move on the script is EVENT, which runs the word that stands on EVT_IN. -/
theorem stepRunsPresentedEvent : Obligations.StepRunsPresentedEvent := fun s w rest hcfg hscript he =>
  calc step s
    _ = perform .event { s with script := rest } := step_of_script_cons hcfg hscript
    _ = exec (decodeEvt w) { s with script := rest } := eventStep_of_presented he

/-- Of the eight classes, five set RXACK; EV_DATA_RX clears it and the fatal two keep it. -/
theorem eventStep_rearms {s t : State} (h : eventStep s = .next t) (hs : s.rxack = false) (ht : t.rxack = true) :
    ∃ w, s.evtIn = some w ∧ t.evtIn = none ∧
      (evtClassBits w = 0b000#3 ∨ evtClassBits w = 0b010#3 ∨ evtClassBits w = 0b011#3 ∨ evtClassBits w = 0b100#3 ∨
       evtClassBits w = 0b101#3) := by
  obtain ⟨-, rfl⟩ | ⟨-, -, p, ⟨hw | hw | hw, rfl⟩ | ⟨-, rfl⟩ | ⟨hw, rfl⟩ | ⟨hw, rfl⟩ | ⟨-, rfl⟩⟩ := eventStep_next h
  case inl | inr.inr.inl | inr.inr.inr.inr.inr => simp [hs] at ht
  all_goals exact ⟨_, hw, rfl, by simp [evtClassBits_evtWordOf]⟩

/-- Settles O57: by the writers of RXACK the move is an EVENT or a RESET, and an EVENT sets it only for those classes. -/
theorem rejectModeEndsOnlyByReArming : Obligations.RejectModeEndsOnlyByReArming := by
  intro m s t h hs ht
  obtain ⟨-, -, -, hwriters, -⟩ := eachRegisterHasItsWriters m s t h
  obtain rfl | rfl := hwriters (.inl (by simp [hs, ht]))
  · exact .inr ⟨rfl, eventStep_rearms h hs ht⟩
  · exact .inl rfl

end Sys2Proof.Proofs

/-! PROOF. The command dispatch (42_command_dispatch.md): what each command answers (R85 to R103), what it leaves unchanged
(R104), how long a press lasts (R116), and the modes in which no command is dispatched (R84, R87). -/

namespace Sys2Proof.Proofs

open Sys2Proof.Machine Sys2Proof.Laws

/-! ### Where nothing is dispatched (R84, R87) -/

theorem exec_command_not_enabled (c : Byte) {s : State} (h : ¬(s.run = .running ∧ s.state = .idle)) :
    exec (decodeCmd c) s = notEnabled s := by
  obtain ⟨-, hexec⟩ | ⟨-, hexec⟩ | ⟨-, hexec⟩ | ⟨-, hexec⟩ | ⟨-, -, -, hexec⟩ := exec_decodeCmd_cases c <;>
    exact (hexec s).trans (idleArm_disabled _ h)

/-- Settles O32: a step that is not enabled changes nothing outside FAULTED. -/
theorem commandWaitsOutsideIdle : Obligations.CommandWaitsOutsideIdle := fun c _ hoff hf =>
  (exec_command_not_enabled c (not_and_or.2 hoff)).trans (notEnabled_of_not_faulted hf)

/-- Settles O19: in REBOOTING no instruction and no step of the block is enabled, and a RESET enters BOOT. -/
theorem rebootingSpinsUntilReset : Obligations.RebootingSpinsUntilReset := by
  intro s hr
  have hrun : s.run ≠ .running := by simp [hr]
  have hboot : s.run ≠ .boot := by simp [hr]
  have hf : s.run ≠ .faulted := by simp [hr]
  obtain ⟨hlk, hpass, htick, hevent⟩ := disabledMovesChangeNothing s hf
  refine ⟨fun i => (exec_not_running i hrun).trans (notEnabled_of_not_faulted hf), ?_, resetStep s, rfl,
    resetStep_run s⟩
  simp only [List.forall_mem_cons, List.not_mem_nil, false_imp_iff, implies_true, and_true]
  exact ⟨hlk (.inl hboot), hevent (.inl hrun), (hpass hrun).1, htick hr, (hpass hrun).2⟩

/-! ### The commands without a key (R85 to R87, R103) -/

/-- Settles O22: an enabled dispatch that leaves the state as it is. -/
theorem noCommandHasNoEffect : Obligations.NoCommandHasNoEffect := fun _ hr hs =>
  ⟨idleArm_enabled dispatchNone hr hs, rfl⟩

/-- Settles O23: an enabled dispatch that writes BLINK and MBOX. -/
theorem blinkCommandResult : Obligations.BlinkCommandResult := fun _ hr hs =>
  ⟨idleArm_enabled dispatchBlink hr hs, rfl⟩

/-- Settles O24: an enabled dispatch that clears MBOX, whatever the ignored byte. -/
theorem ignoredCommandResult : Obligations.IgnoredCommandResult := fun _ _ hr hs =>
  ⟨idleArm_enabled dispatchIgnored hr hs, decodeCmd_of_ge⟩

/-- Settles O25: the dispatch's whole effect, with the laws of MemWrite for the sentinel. -/
theorem rebootCommandResult : Obligations.RebootCommandResult := by
  intro s hr hs
  obtain ⟨hinside, houtside, -⟩ := memWriteWritesExactlyItsBytes s.ds s.cfg.sentinelAddr s.cfg.sentinelBytes
  have hexec : exec .cmdBoot s = .next (afterDispatch (dispatchBoot s)) := idleArm_enabled dispatchBoot hr hs
  rw [afterDispatch_boot] at hexec
  exact ⟨_, hexec, rfl, hinside, houtside, rfl⟩

/-! ### The key commands (R89) -/

theorem exec_keyCommand {c : Byte} (hk : isKeyCommand c = true) {s : State} (hr : s.run = .running)
    (hs : s.state = .idle) :
    exec (decodeCmd c) s = .next
      { s with
        state := .pressing, key := keyCodeOf s.cfg c, deadline := durationOf s.cfg c, tcnt := 0, tov := false } := by
  obtain ⟨rfl, -⟩ | ⟨rfl, -⟩ | ⟨rfl, -⟩ | ⟨-, hexec⟩ | ⟨-, hnot, -⟩ := exec_decodeCmd_cases c
  case inr.inr.inr.inl => rw [hexec, idleArm_enabled _ hr hs, afterDispatch_key]
  case inr.inr.inr.inr => exact absurd hk (by simp [hnot])
  all_goals exact absurd hk (by decide)

/-- Settles O27: R89's effect, with dur(c) written out. -/
theorem keyCommandsShareOneMeaning : Obligations.KeyCommandsShareOneMeaning := fun c _ hlo hhi hr hs =>
  exec_keyCommand ((isKeyCommand_iff c).2 ⟨hlo, hhi⟩) hr hs

/-! ### How long a press lasts (43_press_release_sequencer.md R116) -/

/-- Ticks that do not reach the overflow count up one by one, and write nothing else. -/
theorem ticks_no_wrap {s : State} {k : Nat} (h : s.tcnt + k < 2 ^ s.cfg.timerW) :
    ticks k s = { s with tcnt := s.tcnt + k } := by
  induction k with
  | zero => rfl
  | succ k ih => rw [ticks, ih (by omega), tickCounter_no_wrap h, Nat.add_assoc]

/-- From a counter reset, a deadline that fits the counter is not exceeded by as many ticks: expiry is strict. -/
theorem not_expired_ticks_of_le_deadline {s : State} {k : Nat} (hwidth : s.deadline < 2 ^ s.cfg.timerW) (hcnt : s.tcnt = 0)
    (htov : s.tov = false) (hk : k ≤ s.deadline) : expired (ticks k s) = false := by
  rw [ticks_no_wrap (by omega), Bool.eq_false_iff, ne_eq, expired_iff]
  simp [hcnt, htov, hk]

/-- R90 to R102 for a key command and its byte: the press is set up, and lasts more than dur(c) ticks. -/
theorem exec_keyCommand_press {i : Instr} {c : Byte} (hd : decodeCmd c = i) (hk : isKeyCommand c = true) {s : State}
    (hr : s.run = .running) (hs : s.state = .idle) :
    exec i s = .next
      { s with
        state := .pressing, key := keyCodeOf s.cfg c, deadline := durationOf s.cfg c, tcnt := 0, tov := false } ∧
    decodeCmd c = i ∧
    (configOk s.cfg = true → ∀ t, exec i s = .next t → ∀ k, k ≤ durationOf s.cfg c → expired (ticks k t) = false) := by
  have hexec := exec_keyCommand hk hr hs
  rw [hd] at hexec
  refine ⟨hexec, hd, fun hcfg t ht k hle => ?_⟩
  cases hexec.symm.trans ht
  exact not_expired_ticks_of_le_deadline (durationOf_lt hcfg c) rfl rfl hle

/-- Settles O28: the eleven bytes are key commands up to 0x0D, whose duration is PRESS_NORMAL. -/
theorem normalKeyCommandResult : Obligations.NormalKeyCommandResult := by
  intro ic hic s hr hs
  have hrows : ∀ ic ∈ normalKeys, decodeCmd ic.2 = ic.1 ∧ cmdClassByBits ic.2 = .key ∧ isKeyCommand ic.2 = true := by
    decide
  obtain ⟨hd, hclass, hk⟩ := hrows ic hic
  rw [← durationOf_of_key s.cfg hclass]
  exact exec_keyCommand_press hd hk hr hs

/-- Settles O29: the two bytes are key commands above 0x0D, whose duration is PRESS_LONG. -/
theorem longKeyCommandResult : Obligations.LongKeyCommandResult := by
  intro ic hic s hr hs
  have hrows : ∀ ic ∈ longKeys, decodeCmd ic.2 = ic.1 ∧ cmdClassByBits ic.2 = .lkey ∧ isKeyCommand ic.2 = true := by
    decide
  obtain ⟨hd, hclass, hk⟩ := hrows ic hic
  rw [← durationOf_of_lkey s.cfg hclass]
  exact exec_keyCommand_press hd hk hr hs

/-! ### The frame of the commands (R104) -/

/-- What a command byte can answer: the state unchanged, or the effect of its class. -/
theorem exec_command_next {c : Byte} {s t : State} (h : exec (decodeCmd c) s = .next t) :
    t = s ∨
    (c = 0x01#8 ∧ t = { s with blink := 1, mbox := 0x00#8 }) ∨
    (c = 0x02#8 ∧
      t = { s with
            ie := false, run := .rebooting, ds := dsMemWrite s.ds s.cfg.sentinelAddr s.cfg.sentinelBytes,
            trace := s.trace ++ [.dsWrite s.cfg.sentinelAddr s.cfg.sentinelBytes, .wdtArm] }) ∨
    (isKeyCommand c = true ∧
      t = { s with
            state := .pressing, key := keyCodeOf s.cfg c, deadline := durationOf s.cfg c, tcnt := 0, tov := false }) ∨
    (0x10 ≤ c.toNat ∧ isKeyCommand c = false ∧ t = { s with mbox := 0x00#8 }) := by
  by_cases hen : s.run = .running ∧ s.state = .idle
  · obtain ⟨-, hexec⟩ | ⟨hc, hexec⟩ | ⟨hc, hexec⟩ | ⟨hc, hexec⟩ | ⟨hc, hnot, -, hexec⟩ := exec_decodeCmd_cases c <;>
      rw [hexec, idleArm_enabled _ hen.1 hen.2] at h <;> cases h
    · exact .inl (afterDispatch_none s)
    · exact .inr (.inl ⟨hc, afterDispatch_blink s⟩)
    · exact .inr (.inr (.inl ⟨hc, afterDispatch_boot s⟩))
    · exact .inr (.inr (.inr (.inl ⟨hc, afterDispatch_key c s⟩)))
    · exact .inr (.inr (.inr (.inr ⟨hc, hnot, afterDispatch_ignored s⟩)))
  · rw [exec_command_not_enabled c hen] at h
    exact .inl (notEnabled_next h).1

/-- Settles O31: each class writes only the fields of its effect, and the sentinel's bytes are all that 0x02 stores. -/
theorem commandsChangeNothingElse : Obligations.CommandsChangeNothingElse := by
  intro c s t h
  obtain rfl | ⟨rfl, rfl⟩ | ⟨rfl, rfl⟩ | ⟨hk, rfl⟩ | ⟨hge, hnot, rfl⟩ := exec_command_next h
  · simp
  · simp [isKeyCommand]
  · simpa using readByte_dsMemWrite_outside s.cfg.sentinelBytes s.ds s.cfg.sentinelAddr
  · simp [hk]
  · have h0 : c.toNat ≠ 0x00 := by omega
    have h2 : c.toNat ≠ 0x02 := by omega
    simp [hnot, h0, h2]

/-- Settles O33: the state each class leaves, of which only a key command's is PRESSING. -/
theorem dispatchAcceptsExactlyKeyBytes : Obligations.DispatchAcceptsExactlyKeyBytes := by
  intro s hr hs
  rw [← isKeyCommand_iff]
  obtain ⟨hm, hexec⟩ | ⟨hm, hexec⟩ | ⟨hm, hexec⟩ | ⟨hk, hexec⟩ | ⟨-, hnot, -, hexec⟩ := exec_decodeCmd_cases s.mbox <;>
    rw [hexec, idleArm_enabled _ hr hs]
  · exact ⟨s, rfl, by simp [hs, hm, isKeyCommand]⟩
  · rw [afterDispatch_blink]
    exact ⟨_, rfl, by simp [hs, hm, isKeyCommand]⟩
  · rw [afterDispatch_boot]
    exact ⟨_, rfl, by simp [hs, hm, isKeyCommand]⟩
  · rw [afterDispatch_key]
    exact ⟨_, rfl, by simp [hk]⟩
  · rw [afterDispatch_ignored]
    exact ⟨_, rfl, by simp [hs, hnot]⟩

end Sys2Proof.Proofs

/-! PROOF. The press/release sequencer (43_press_release_sequencer.md): the arm each PASS runs and what it writes (R110 to R114),
the counter's ticks and when a deadline has expired (R105, R106, R116), and the HID read (R119). -/

namespace Sys2Proof.Proofs

open Sys2Proof.Machine Sys2Proof.Laws

/-! ### Ticks and expiry (R106, R108, R116) -/

/-- Once the ticks reach the overflow, TOV is set: the last tick before it wraps, and every later one keeps the flag. -/
theorem ticks_tov_of_overflow {s : State} {k : Nat} (hwidth : s.tcnt < 2 ^ s.cfg.timerW)
    (h : 2 ^ s.cfg.timerW ≤ s.tcnt + k) : (ticks k s).tov = true := by
  induction k with
  | zero => omega
  | succ k ih =>
    by_cases hbefore : 2 ^ s.cfg.timerW ≤ s.tcnt + k
    · rw [ticks, tickCounter_tov, ih hbefore, tickedTov_of_true]
    · have hmax : s.tcnt + k = 2 ^ s.cfg.timerW - 1 := by omega
      rw [ticks, ticks_no_wrap (by omega), tickCounter_wrap hmax]

/-- R116: below the overflow the count itself decides, and from there on TOV means expired, past every deadline that fits. -/
theorem expired_ticks_iff {s : State} {k : Nat} (hwidth : s.deadline ≤ 2 ^ s.cfg.timerW - 1) (hcnt : s.tcnt = 0)
    (htov : s.tov = false) : expired (ticks k s) = true ↔ s.deadline + 1 ≤ k := by
  have hpos := Nat.two_pow_pos s.cfg.timerW
  by_cases hk : k < 2 ^ s.cfg.timerW
  · rw [ticks_no_wrap (by omega), expired_iff]
    simp [hcnt, htov]
  · have hover : (ticks k s).tov = true := ticks_tov_of_overflow (by omega) (by omega)
    exact iff_of_true ((expired_iff _).2 (.inr hover)) (by omega)

/-- Settles O41: by whether the ticks reach the overflow. -/
theorem expiryAfterDeadlinePlusOneTicks : Obligations.ExpiryAfterDeadlinePlusOneTicks := by
  intro s k hwidth hcnt htov
  refine ⟨expired_ticks_iff hwidth hcnt htov, fun hk => ?_, fun hk => ?_⟩
  · rw [ticks_no_wrap (by omega)]
    exact ⟨by simp [hcnt], htov⟩
  · exact ticks_tov_of_overflow (hcnt ▸ Nat.two_pow_pos _) (by omega)

/-! ### The arm of a pass (R110, R112 to R114) -/

theorem passArm_idle {s : State} (hs : s.state = .idle) : passArm s = exec (decodeCmd s.mbox) s := by
  simp only [passArm, hs]

theorem passArm_pressing {s : State} (hs : s.state = .pressing) : passArm s = .next (pressingArm s) := by
  simp only [passArm, hs]

theorem passArm_releasing {s : State} (hs : s.state = .releasing) : passArm s = .next (releasingArm s) := by
  simp only [passArm, hs]

/-- Settles O34: the blink step keeps STATE and MBOX, so the arm is the one of the state before it. -/
theorem passRunsOneArmAfterTheBlinkStep : Obligations.PassRunsOneArmAfterTheBlinkStep := by
  intro s hr
  have hpass : perform .pass s = passArm (blinkStep s) := passStep_running hr
  rw [hpass, ← blinkStep_state s, ← blinkStep_mbox s]
  exact ⟨passArm_idle, passArm_pressing, passArm_releasing⟩

/-- Settles O9: the move on the script is PASS, which in IDLE runs the command in MBOX. -/
theorem stepRunsPendingCommand : Obligations.StepRunsPendingCommand := by
  intro s rest hcfg hscript hr hs
  obtain ⟨hidle, -, -⟩ := passRunsOneArmAfterTheBlinkStep { s with script := rest } hr
  calc step s
    _ = perform .pass { s with script := rest } := step_of_script_cons hcfg hscript
    _ = exec (decodeCmd s.mbox) (blinkStep { s with script := rest }) := hidle hs

/-- Expiry reads nothing that the blink step writes (44_diagnostic_blink.md R122). -/
theorem expired_blinkStep_iff (s : State) : expired (blinkStep s) = true ↔ s.deadline < s.tcnt ∨ s.tov = true := by
  rw [expired_iff, blinkStep_deadline, blinkStep_tcnt, blinkStep_tov]

theorem expired_blinkStep_eq_false_iff (s : State) :
    expired (blinkStep s) = false ↔ s.tcnt ≤ s.deadline ∧ s.tov = false := by
  rw [← Bool.not_eq_true, expired_blinkStep_iff, not_or, not_lt, Bool.not_eq_true]

/-- Settles O35: the pressing arm after the blink step, which keeps what expiry reads and the configuration. -/
theorem pressingArmResult : Obligations.PressingArmResult := by
  intro s hr hs
  obtain ⟨-, hpressing, -⟩ := passRunsOneArmAfterTheBlinkStep s hr
  rw [hpressing hs]
  refine ⟨fun h => ?_, fun hle htov => ?_⟩
  · simp only [pressingArm_expired ((expired_blinkStep_iff s).2 h), blinkStep_cfg]
  · rw [pressingArm_not_expired ((expired_blinkStep_eq_false_iff s).2 ⟨hle, htov⟩)]

/-- Settles O36: the releasing arm after the blink step, which keeps what expiry reads. -/
theorem releasingArmResult : Obligations.ReleasingArmResult := by
  intro s hr hs
  obtain ⟨-, -, hreleasing⟩ := passRunsOneArmAfterTheBlinkStep s hr
  rw [hreleasing hs]
  refine ⟨fun h => ?_, fun hle htov => ?_⟩
  · rw [releasingArm_expired ((expired_blinkStep_iff s).2 h)]
  · rw [releasingArm_not_expired ((expired_blinkStep_eq_false_iff s).2 ⟨hle, htov⟩)]

/-! ### The timer agent and the HID read (R105, R106, R119) -/

theorem tickStep_enabled {s : State} (hr : s.run = .boot ∨ s.run = .running) : tickStep s = .next (tickCounter s) := by
  obtain hr | hr := hr <;> simp only [tickStep, hr]

/-- Settles O40: an enabled tick is the counter's, which wraps exactly at the greatest value. -/
theorem tickResult : Obligations.TickResult := by
  intro s hr hwidth
  have htick : perform .tick s = .next (tickCounter s) := tickStep_enabled hr
  refine ⟨fun hmax => ?_, fun hne => ?_, tickCounter s, htick, tickedTcnt_lt⟩
  · rw [htick, tickCounter_wrap hmax]
  · rw [htick, tickCounter_no_wrap (by omega)]

/-- Settles O43: an enabled HID_READ emits KEY, and the emission is all it does. -/
theorem hidReadReturnsKey : Obligations.HidReadReturnsKey := fun _ hr => if_pos hr

end Sys2Proof.Proofs

/-! PROOF. The diagnostic blink counter (44_diagnostic_blink.md): the blink step (R120), the sequence one CMD_BLINK arms (R121),
and that BLINK decides nothing else (R122). -/

namespace Sys2Proof.Proofs

open Sys2Proof.Machine Sys2Proof.Laws

/-! ### The blink step and its sequence (R120, R121) -/

/-- Settles O37: by whether BLINK is 0; a count that fits the register does not wrap. -/
theorem blinkStepResult : Obligations.BlinkStepResult := by
  intro s
  obtain ⟨h0, hstep⟩ | ⟨hne, hstep⟩ := blinkStep_cases s
  · exact ⟨fun _ => hstep, fun hne => absurd h0 hne, fun hne => absurd h0 hne⟩
  · refine ⟨fun h0 => absurd h0 hne, fun _ hfits hbelow => ?_, fun _ hfits hend => ?_⟩
    · rw [hstep, Nat.mod_eq_of_lt hfits, if_neg hbelow]
    · rw [hstep, Nat.mod_eq_of_lt hfits, if_pos hend]

/-- The two active cases of the blink step as one. -/
theorem blinkStep_active {s : State} (hne : s.blink ≠ 0) (hfits : s.blink + 1 < 2 ^ s.cfg.blinkW) :
    blinkStep s = { s with
      blink := if s.blink + 1 = s.cfg.blinkEnd then 0 else s.blink + 1,
      trace := s.trace ++ [.blinkAt (s.blink + 1)] } := by
  obtain ⟨-, hcounting, hfinal⟩ := blinkStepResult s
  split
  · next hend => exact hfinal hne hfits hend
  · next hbelow => exact hcounting hne hfits hbelow

/-- Every prefix of the sequence armed at 1: before its last step the count is one more than the steps taken. -/
theorem blinkSteps_armed {s : State} (hcfg : configOk s.cfg = true) (harmed : s.blink = 1) {k : Nat}
    (hk : k < s.cfg.blinkEnd) :
    blinkSteps k s = { s with
      blink := if k + 1 = s.cfg.blinkEnd then 0 else k + 1,
      trace := s.trace ++ (List.range k).map fun j => .blinkAt (j + 2) } := by
  obtain ⟨-, -, -, -, htwo, hwidth⟩ := configOk_bounds hcfg
  induction k with
  | zero =>
    have hbelow : 0 + 1 ≠ s.cfg.blinkEnd := by omega
    rw [if_neg hbelow, zero_add, ← harmed, List.range_zero, List.map_nil, List.append_nil, blinkSteps]
  | succ k ih =>
    have hbelow : k + 1 ≠ s.cfg.blinkEnd := by omega
    have hfits : k + 1 + 1 < 2 ^ s.cfg.blinkW := by omega
    rw [blinkSteps, ih (by omega), if_neg hbelow, blinkStep_active (Nat.succ_ne_zero k) hfits]
    simp only [List.range_succ, List.map_append, List.map_cons, List.map_nil, List.append_assoc]

/-- An inactive counter stays inactive. -/
theorem blinkSteps_inactive {s : State} (h : s.blink = 0) (k : Nat) : blinkSteps k s = s := by
  induction k with
  | zero => rfl
  | succ k ih => rw [blinkSteps, ih, (blinkStepResult s).1 h]

theorem blinkSteps_add (n k : Nat) (s : State) : blinkSteps (n + k) s = blinkSteps k (blinkSteps n s) := by
  induction k with
  | zero => rfl
  | succ k ih => rw [← Nat.add_assoc, blinkSteps, ih, blinkSteps]

/-- Settles O38: the prefixes of the sequence, whose last leaves the counter inactive. -/
theorem blinkSequenceEmitsEveryCount : Obligations.BlinkSequenceEmitsEveryCount := by
  intro s hcfg harmed
  obtain ⟨-, -, -, -, htwo, -⟩ := configOk_bounds hcfg
  refine ⟨fun k hk => by rw [blinkSteps_armed hcfg harmed hk]; exact ⟨rfl, rfl⟩, fun k => ?_⟩
  have hend : (blinkSteps (s.cfg.blinkEnd - 1) s).blink = 0 := by
    rw [blinkSteps_armed hcfg harmed (by omega)]
    exact if_pos (by omega)
  rw [blinkSteps_add, blinkSteps_inactive hend]

/-! ### States that differ only in BLINK and BLINK_AT (R122) -/

theorem sameButBlink_cases {s t : State} (h : sameButBlink s t) :
    ∃ blink trace, t = { s with blink := blink, trace := trace } ∧ s.trace.filter notBlinkAt = trace.filter notBlinkAt :=
  ⟨t.blink, t.trace, h⟩

theorem sameButBlink_symm {s t : State} (h : sameButBlink s t) : sameButBlink t s := by
  obtain ⟨_, _, rfl, htrace⟩ := sameButBlink_cases h
  exact ⟨rfl, htrace.symm⟩

theorem sameButBlink_trans {s t u : State} (hst : sameButBlink s t) (htu : sameButBlink t u) : sameButBlink s u := by
  obtain ⟨_, _, rfl, hs⟩ := sameButBlink_cases hst
  obtain ⟨_, _, rfl, ht⟩ := sameButBlink_cases htu
  exact ⟨rfl, hs.trans ht⟩

/-- The blink step writes only BLINK and emits only BLINK_AT (R120, R122). -/
theorem sameButBlink_blinkStep (s : State) : sameButBlink s (blinkStep s) := by
  obtain ⟨-, h⟩ | ⟨-, h⟩ := blinkStep_cases s <;> rw [h]
  · exact ⟨rfl, rfl⟩
  · exact ⟨rfl, by simp [notBlinkAt]⟩

/-! ### Effects and outcomes that BLINK does not decide

The effect of each operation keeps two states the same but for BLINK, and every enabling test reads the same in both, so the
moves answer the same outcome. -/

/-- An effect under which states that differ only in BLINK and BLINK_AT go on differing only in them. -/
def IgnoresBlink (effect : State → State) : Prop :=
  ∀ ⦃s t : State⦄, sameButBlink s t → sameButBlink (effect s) (effect t)

/-- Two outcomes that are the same but for BLINK and BLINK_AT. -/
inductive SameOutcome : Result → Result → Prop
  | next {s t : State} (h : sameButBlink s t) : SameOutcome (.next s) (.next t)
  | fault (f : Fault) : SameOutcome (.fault f) (.fault f)
  | refused (r : Refusal) : SameOutcome (.refused r) (.refused r)

theorem SameOutcome.exists_next {s : State} {r : Result} (h : SameOutcome (.next s) r) :
    ∃ t, r = .next t ∧ sameButBlink s t := by
  cases h with
  | next h => exact ⟨_, rfl, h⟩

theorem SameOutcome.eq_fault {f : Fault} {r : Result} (h : SameOutcome (.fault f) r) : r = .fault f := by
  cases h; rfl

theorem SameOutcome.eq_refused {e : Refusal} {r : Result} (h : SameOutcome (.refused e) r) : r = .refused e := by
  cases h; rfl

/-- Related results chosen by one test. -/
theorem rel_ite {α : Type} {R : α → α → Prop} {c : Prop} [Decidable c] {a b a' b' : α} (hyes : R a a') (hno : R b b') :
    R (if c then a else b) (if c then a' else b') := by
  split
  · exact hyes
  · exact hno

theorem ignoresBlink_emit (o : Output) : IgnoresBlink (emit o) := by
  intro s t h
  obtain ⟨_, _, rfl, htrace⟩ := sameButBlink_cases h
  exact ⟨rfl, by simp only [emit, List.filter_append, htrace]⟩

theorem ignoresBlink_blinkStep : IgnoresBlink blinkStep := fun s t h =>
  sameButBlink_trans (sameButBlink_symm (sameButBlink_blinkStep s)) (sameButBlink_trans h (sameButBlink_blinkStep t))

theorem sameOutcome_notEnabled {s t : State} (h : sameButBlink s t) : SameOutcome (notEnabled s) (notEnabled t) := by
  rw [notEnabled_eq, notEnabled_eq]
  obtain ⟨_, _, rfl, -⟩ := sameButBlink_cases h
  exact rel_ite (.fault _) (.next h)

/-! ### The receiver -/

/-- The arms of the eight classes; those that emit, emit the same. -/
theorem ignoresBlink_receiverArm (i : Instr) : IgnoresBlink (receiverArm i) := by
  intro s t h
  obtain ⟨_, _, rfl, htrace⟩ := sameButBlink_cases h
  cases i
  case evBusErr | evOther | evReserved7 => exact ⟨rfl, (ignoresBlink_emit _ h).2⟩
  all_goals exact ⟨rfl, htrace⟩

theorem sameOutcome_takeEvent {arm : State → State} (harm : IgnoresBlink arm) {s t : State} (h : sameButBlink s t) :
    SameOutcome (takeEvent arm s) (takeEvent arm t) := by
  obtain ⟨_, _, rfl, htrace⟩ := sameButBlink_cases h
  unfold takeEvent
  exact rel_ite (.next (harm ⟨rfl, htrace⟩)) (sameOutcome_notEnabled h)

theorem sameOutcome_eventStep {s t : State} (h : sameButBlink s t) : SameOutcome (eventStep s) (eventStep t) := by
  have hevt : t.evtIn = s.evtIn := by rw [h.1]
  cases he : s.evtIn with
  | none =>
    simp only [eventStep, hevt, he]
    exact sameOutcome_notEnabled h
  | some w =>
    simp only [eventStep, hevt, he, exec_decodeEvt]
    exact sameOutcome_takeEvent (ignoresBlink_receiverArm _) h

/-! ### The pass -/

theorem sameOutcome_idleArm {d : State → State × DispatchReturn} (hd : IgnoresBlink (afterDispatch ∘ d)) {s t : State}
    (h : sameButBlink s t) : SameOutcome (idleArm d s) (idleArm d t) := by
  have hrun : t.run = s.run := by rw [h.1]
  have hstate : t.state = s.state := by rw [h.1]
  by_cases hen : s.run = .running ∧ s.state = .idle
  · rw [idleArm_enabled d hen.1 hen.2, idleArm_enabled d (hrun.trans hen.1) (hstate.trans hen.2)]
    exact .next (hd h)
  · rw [idleArm_disabled d hen, idleArm_disabled d (hrun ▸ hstate ▸ hen)]
    exact sameOutcome_notEnabled h

/-- The dispatch of each class of command; only the reboot command emits. -/
theorem sameOutcome_exec_command (c : Byte) {s t : State} (h : sameButBlink s t) :
    SameOutcome (exec (decodeCmd c) s) (exec (decodeCmd c) t) := by
  obtain ⟨-, hexec⟩ | ⟨-, hexec⟩ | ⟨-, hexec⟩ | ⟨-, hexec⟩ | ⟨-, -, -, hexec⟩ := exec_decodeCmd_cases c <;>
    rw [hexec, hexec] <;> refine sameOutcome_idleArm (fun u v huv => ?_) h <;>
    obtain ⟨_, _, rfl, htrace⟩ := sameButBlink_cases huv
  case inr.inr.inl => exact ⟨rfl, (ignoresBlink_emit _ (ignoresBlink_emit _ huv)).2⟩
  all_goals exact ⟨rfl, htrace⟩

theorem ignoresBlink_pressingArm : IgnoresBlink pressingArm := by
  intro s t h
  obtain ⟨_, _, rfl, htrace⟩ := sameButBlink_cases h
  exact rel_ite (R := sameButBlink) ⟨rfl, htrace⟩ ⟨rfl, htrace⟩

theorem ignoresBlink_releasingArm : IgnoresBlink releasingArm := by
  intro s t h
  obtain ⟨_, _, rfl, htrace⟩ := sameButBlink_cases h
  exact rel_ite (R := sameButBlink) ⟨rfl, htrace⟩ ⟨rfl, htrace⟩

theorem sameOutcome_passArm {s t : State} (h : sameButBlink s t) : SameOutcome (passArm s) (passArm t) := by
  have hstate : t.state = s.state := by rw [h.1]
  have hmbox : t.mbox = s.mbox := by rw [h.1]
  cases hs : s.state with
  | idle =>
    rw [passArm_idle hs, passArm_idle (hstate.trans hs), hmbox]
    exact sameOutcome_exec_command _ h
  | pressing =>
    rw [passArm_pressing hs, passArm_pressing (hstate.trans hs)]
    exact .next (ignoresBlink_pressingArm h)
  | releasing =>
    rw [passArm_releasing hs, passArm_releasing (hstate.trans hs)]
    exact .next (ignoresBlink_releasingArm h)

/-- Both states take their own blink step and then the same arm (R110). -/
theorem sameOutcome_passStep {s t : State} (h : sameButBlink s t) : SameOutcome (passStep s) (passStep t) := by
  have harm : SameOutcome (passArm (blinkStep s)) (passArm (blinkStep t)) :=
    sameOutcome_passArm (ignoresBlink_blinkStep h)
  obtain ⟨_, _, rfl, -⟩ := sameButBlink_cases h
  exact rel_ite harm (sameOutcome_notEnabled h)

/-! ### The lookup engine, the timer and the environment -/

theorem psMemRead_of_sameButBlink {s t : State} (h : sameButBlink s t) (a : Nat) : psMemRead t a = psMemRead s a := by
  obtain ⟨_, _, rfl, -⟩ := sameButBlink_cases h
  rfl

theorem sameOutcome_lkScanCell {s t : State} (h : sameButBlink s t) : SameOutcome (lkScanCell s) (lkScanCell t) := by
  have hread := psMemRead_of_sameButBlink h
  obtain ⟨_, _, rfl, -⟩ := sameButBlink_cases h
  simp only [lkScanCell, hread]
  cases psMemRead s (indAddr s.cfg s.lkIdx) with
  | none => exact .fault _
  | some b => exact .next ⟨rfl, (ignoresBlink_emit _ h).2⟩

theorem ignoresBlink_lkEndScan : IgnoresBlink lkEndScan := by
  intro s t h
  obtain ⟨_, _, rfl, htrace⟩ := sameButBlink_cases h
  simp only [lkEndScan]
  split <;> exact ⟨rfl, htrace⟩

theorem sameOutcome_lkFetch {s t : State} (h : sameButBlink s t) : SameOutcome (lkFetch s) (lkFetch t) := by
  have hread := psMemRead_of_sameButBlink h
  obtain ⟨_, _, rfl, -⟩ := sameButBlink_cases h
  simp only [lkFetch, hread]
  split
  · exact .fault _
  · next i _ =>
    cases psMemRead s (valAddr s.cfg i) with
    | none => exact .fault _
    | some b => exact .next ⟨rfl, (ignoresBlink_emit _ h).2⟩

theorem sameOutcome_lkStep {s t : State} (h : sameButBlink s t) : SameOutcome (lkStep s) (lkStep t) := by
  have hrun : t.run = s.run := by rw [h.1]
  have hphase : t.lkPhase = s.lkPhase := by rw [h.1]
  have hidx : t.lkIdx = s.lkIdx := by rw [h.1]
  have hcfg : t.cfg = s.cfg := by rw [h.1]
  have hwait : SameOutcome (notEnabled s) (notEnabled t) := sameOutcome_notEnabled h
  simp only [lkStep, hrun, hphase, hidx, hcfg]
  refine rel_ite ?_ hwait
  cases s.lkPhase with
  | scan => exact rel_ite (sameOutcome_lkScanCell h) (rel_ite (.next (ignoresBlink_lkEndScan h)) (.fault _))
  | fetch => exact sameOutcome_lkFetch h
  | done => exact hwait

theorem ignoresBlink_tickCounter : IgnoresBlink tickCounter := by
  intro s t h
  obtain ⟨_, _, rfl, htrace⟩ := sameButBlink_cases h
  exact ⟨rfl, htrace⟩

theorem sameOutcome_tickStep {s t : State} (h : sameButBlink s t) : SameOutcome (tickStep s) (tickStep t) := by
  have hrun : t.run = s.run := by rw [h.1]
  simp only [tickStep, hrun]
  cases s.run with
  | boot | running => exact .next (ignoresBlink_tickCounter h)
  | rebooting | faulted => exact sameOutcome_notEnabled h

theorem sameOutcome_hidReadStep {s t : State} (h : sameButBlink s t) : SameOutcome (hidReadStep s) (hidReadStep t) := by
  have hread := ignoresBlink_emit (.hidReturn s.key) h
  obtain ⟨_, _, rfl, -⟩ := sameButBlink_cases h
  exact rel_ite (.next hread) (sameOutcome_notEnabled h)

theorem ignoresBlink_presentWord (w : EvtWord) : IgnoresBlink (presentWord w) := by
  intro s t h
  obtain ⟨_, _, rfl, htrace⟩ := sameButBlink_cases h
  simp only [presentWord]
  split <;> exact ⟨rfl, htrace⟩

theorem ignoresBlink_programPs (a : Nat) (b : Byte) : IgnoresBlink (programPs a b) := by
  intro s t h
  obtain ⟨_, _, rfl, htrace⟩ := sameButBlink_cases h
  simp only [programPs]
  split <;> exact ⟨rfl, htrace⟩

theorem ignoresBlink_resetStep : IgnoresBlink resetStep := by
  intro s t h
  obtain ⟨_, _, rfl, htrace⟩ := sameButBlink_cases h
  exact ⟨rfl, htrace⟩

/-! ### Every move -/

theorem sameOutcome_perform (m : Move) {s t : State} (h : sameButBlink s t) :
    SameOutcome (perform m s) (perform m t) := by
  have hcfg : t.cfg = s.cfg := by rw [h.1]
  cases m with
  | reset => exact .next (ignoresBlink_resetStep h)
  | lkStep => exact sameOutcome_lkStep h
  | event => exact sameOutcome_eventStep h
  | pass => exact sameOutcome_passStep h
  | tick => exact sameOutcome_tickStep h
  | hidRead => exact sameOutcome_hidReadStep h
  | present w => exact .next (ignoresBlink_presentWord w h)
  | report status data =>
    simp only [perform, hcfg]
    exact .next (ignoresBlink_presentWord _ h)
  | program a b => exact .next (ignoresBlink_programPs a b h)

/-- Settles O39: every move answers the same outcome but for BLINK, whichever of the three kinds it is. -/
theorem blinkDoesNotInterfere : Obligations.BlinkDoesNotInterfere := by
  refine ⟨sameButBlink_blinkStep, fun m s t h => ?_⟩
  have hsame : SameOutcome (perform m s) (perform m t) := sameOutcome_perform m h
  exact ⟨fun _ hs => (hs ▸ hsame).exists_next, fun _ hf => (hf ▸ hsame).eq_fault, fun _ hr => (hr ▸ hsame).eq_refused⟩

end Sys2Proof.Proofs

/-! PROOF. The one exception (60_exceptions.md): the event a reported status becomes (R135), which step raises the fault (R124),
what FAULTED leaves enabled (R126), and which of two terminal steps wins (R130). -/

namespace Sys2Proof.Proofs

open Sys2Proof.Machine Sys2Proof.Laws

/-! ### Reported statuses (R135, P2 to P7) -/

/-- Settles O6: class by class of EVENT_MAP, the reported word is one of that class, which decodes to its event. -/
theorem reportedStatusDecodes : Obligations.ReportedStatusDecodes := by
  intro cfg status data
  rw [reportWord]
  cases classify cfg status with
  | addrRx | stop | addrTx | busErr =>
    simp only [eventClassBits, decodeEvt_evtWordOf]
    exact ⟨_, rfl⟩
  | dataRx | dataNack | other => simp only [eventClassBits, decodeEvt_evtWordOf]

/-! ### The stopped machine (R126) -/

theorem tickStep_faulted {s : State} (h : s.run = .faulted) : tickStep s = notEnabled s := by
  simp only [tickStep, h]

/-- Settles O18: in FAULTED no instruction and no step of the block is enabled, and a RESET enters BOOT. -/
theorem faultedModeIsAFault : Obligations.FaultedModeIsAFault := by
  intro s hf
  have hrun : s.run ≠ .running := by simp [hf]
  have hboot : s.run ≠ .boot := by simp [hf]
  have hstop : notEnabled s = .fault .protocolFault := notEnabled_of_faulted hf
  refine ⟨fun i => (exec_not_running i hrun).trans hstop, ?_, resetStep s, rfl, resetStep_run s, resetStep_fcause s⟩
  simp only [List.forall_mem_cons, List.not_mem_nil, false_imp_iff, implies_true, and_true]
  exact ⟨(lkStep_not_enabled (.inl hboot)).trans hstop, (eventStep_not_enabled (.inl hrun)).trans hstop,
    (passStep_not_running hrun).trans hstop, (tickStep_faulted hf).trans hstop, (hidReadStep_not_running hrun).trans hstop⟩

/-! ### The first terminal step (R130) -/

/-- A PASS that dispatches 0x02 enters REBOOTING (42_command_dispatch.md R87). -/
theorem pass_enters_rebooting {s : State} (hr : s.run = .running) (hs : s.state = .idle) (hm : s.mbox = 0x02#8) :
    ∃ t, perform .pass s = .next t ∧ t.run = .rebooting := by
  obtain ⟨hidle, -, -⟩ := passRunsOneArmAfterTheBlinkStep s hr
  obtain ⟨t, hexec, hwhole, -, -, hd⟩ := rebootCommandResult (blinkStep s) (by simp [hr]) (by simp [hs])
  refine ⟨t, ?_, by rw [hwhole]⟩
  rw [hidle hs, hm, hd, hexec]

/-- An EVENT that takes an EV_OTHER enters FAULTED (41_bus_slave_receiver.md R79). -/
theorem event_enters_faulted {s : State} {st : Byte} (hr : s.run = .running) (hi : s.ie = true)
    (he : s.evtIn = some (evtWordOf 0b110#3 st)) : ∃ t, perform .event s = .next t ∧ t.run = .faulted := by
  obtain ⟨htaken, hd, -⟩ := protocolFaultIsTaken st s hr hi
  have hevent : perform .event s = exec (.evOther st) s := hd ▸ eventStep_of_presented he
  exact ⟨_, hevent.trans (htaken _ List.mem_cons_self), rfl⟩

/-- Settles O20: each of the two steps enters its terminal mode, where the other step is not enabled. -/
theorem firstTerminalStepWins : Obligations.FirstTerminalStepWins := by
  intro st s hr hi hs hm he
  constructor
  · obtain ⟨t, hpass, ht⟩ := pass_enters_rebooting hr hs hm
    obtain ⟨-, hspin, -⟩ := rebootingSpinsUntilReset t ht
    exact ⟨t, hpass, ht, hspin .event (by decide)⟩
  · obtain ⟨t, hevent, ht⟩ := event_enters_faulted hr hi he
    obtain ⟨-, hfault, -⟩ := faultedModeIsAFault t ht
    exact ⟨t, hevent, ht, hfault .pass (by decide)⟩

/-! ### What raises the fault (R124) -/

theorem lkStep_run_ne_faulted {s t : State} (h : lkStep s = .next t) : t.run ≠ .faulted := by
  obtain ⟨hb, -, -, rfl⟩ | ⟨-, -, -, -, rfl⟩ | ⟨hb, -, -, -, rfl⟩ | ⟨i, -, -, -, -, rfl⟩ | ⟨-, hf, rfl⟩ := lkStep_next h
  · simp [hb]
  · simp
  · simp [hb]
  · simp
  · exact hf

theorem passStep_run_ne_faulted {s t : State} (h : passStep s = .next t) : t.run ≠ .faulted := by
  obtain ⟨-, hf, rfl⟩ | ⟨hr, -, ⟨-, rfl⟩ | ⟨-, rfl⟩ | ⟨-, rfl⟩ | ⟨-, rfl⟩ | ⟨-, rfl⟩⟩ | ⟨hr, -, -, rfl⟩ | ⟨hr, -, -, rfl⟩ |
    ⟨hr, -, -, rfl⟩ := passStep_next h
  case inl => exact hf
  case inr.inl.inr.inr.inl => nofun
  all_goals simp [hr]

/-- Of the eight classes only the two fatal ones enter FAULTED, and they record their payload as the status (R125). -/
theorem eventStep_enters_faulted {s t : State} (h : eventStep s = .next t) (hs : s.run ≠ .faulted)
    (ht : t.run = .faulted) :
    ∃ st, (s.evtIn = some (evtWordOf 0b110#3 st) ∨ s.evtIn = some (evtWordOf 0b111#3 st)) ∧
      t.fcause = .protocol ∧ t.fstatus = st ∧ t.trace = s.trace ++ [.dbgMarker (s.cfg.faultMarker ++ [st])] := by
  obtain ⟨-, rfl⟩ | ⟨-, -, p, ⟨-, rfl⟩ | ⟨-, rfl⟩ | ⟨-, rfl⟩ | ⟨-, rfl⟩ | ⟨hw, rfl⟩⟩ := eventStep_next h
  case inr.inr.inr.inr.inr => exact ⟨p, hw, rfl, rfl, rfl⟩
  all_goals exact absurd ht hs

/-- Settles O21: of the writers of RUN, a lookup step and a PASS never enter FAULTED and a RESET enters BOOT, so it is an
EVENT, of a fatal class. -/
theorem onlyFatalEventsFault : Obligations.OnlyFatalEventsFault := by
  intro m s t h hs ht
  obtain ⟨-, -, -, -, -, -, hwriters, -⟩ := eachRegisterHasItsWriters m s t h
  have hrun : t.run ≠ s.run := fun heq => hs (heq ▸ ht)
  obtain rfl | rfl | rfl | rfl := hwriters (.inl hrun)
  · exact absurd ht (lkStep_run_ne_faulted h)
  · exact absurd ht (passStep_run_ne_faulted h)
  · exact ⟨rfl, eventStep_enters_faulted h hs ht⟩
  · cases h
    cases ht

end Sys2Proof.Proofs

/-! PROOF. Reset (70_reset_and_hazards.md R139, R141): what a RESET writes, the state a launch starts in, and the state in which
the boot sequence ends. -/

namespace Sys2Proof.Proofs

open Sys2Proof.Machine Sys2Proof.Laws

/-! ### RESET and the launch (R139) -/

/-- Settles O49: the RESET step writes the values themselves, and takes the free ones modulo the counter's width. -/
theorem resetWritesEveryRegister : Obligations.ResetWritesEveryRegister := by
  intro s
  have hmod : ∀ n, n % 2 ^ s.cfg.timerW < 2 ^ s.cfg.timerW := fun n => Nat.mod_lt n (Nat.two_pow_pos _)
  exact ⟨resetStep s, rfl, resetStep_state s, resetStep_mbox s, resetStep_key s, resetStep_blink s, resetStep_rxack s,
    resetStep_lkPhase s, resetStep_lkIdx s, resetStep_lkBest s, resetStep_run s, resetStep_ie s, resetStep_fcause s,
    resetStep_fstatus s, hmod _, hmod _, resetStep_trace s, resetStep_cfg s, resetStep_ps s, resetStep_evtIn s⟩

/-- A launch differs from a RESET, as far as the invariant sees, only in TCNT and DEADLINE, which it starts at 0. -/
theorem inv_launch {cfg : Config} {ps : Memory} (hcfg : configOk cfg = true) (hps : Memory.wf .ps ps = true) :
    Inv (State.launch cfg ps) :=
  { inv_resetStep (s := State.launch cfg ps) hcfg hps with
    tcntWidth := Nat.two_pow_pos _
    deadlineWidth := Nat.two_pow_pos _
    pressDeadline := nofun
    holdDeadline := nofun }

/-- Settles O50: State.reset is the launch under P_EX, which meets R6, with no byte of PS listed. -/
theorem launchMeetsTheInvariant : Obligations.LaunchMeetsTheInvariant :=
  have hpEx : configOk Config.pEx = true := by decide
  ⟨fun _ _ => inv_launch, inv_launch hpEx reset_ps_wf, rfl, rfl, rfl, rfl, rfl, rfl, rfl, rfl, rfl, rfl, rfl, rfl⟩

/-! ### The end of the boot (R141) -/

/-- Settles O53: the invariant gives the lookup's registers in the state entered, and an LK_STEP keeps the sequencer's, which
were quiet during BOOT. -/
theorem bootEndsQuiet : Obligations.BootEndsQuiet := by
  intro s t hi hb h hr
  have hit : Inv t := lkStep_keeps_inv hi h
  have hdone : t.lkPhase = .done := lkPhase_eq_done_of_running hit hr
  obtain ⟨hs, hm, hblink, hrx⟩ := hi.bootQuiet hb
  have hkey : s.key = 0x00#8 := hi.keyReleased (by simp [hs])
  refine ⟨hdone, hit.eventEnable.2 hr, hit.doneScannedAll hdone, ?_⟩
  rw [lkStep_writes h]
  exact ⟨hs, hm, hkey, hblink, hrx, rfl, rfl⟩

end Sys2Proof.Proofs

/-! PROOF. The busy mailbox (70_reset_and_hazards.md R144, 43_press_release_sequencer.md R117): a lower bound on the ticks that
a press/release cycle still needs falls only with TICK, and while it is positive MBOX is held. -/

namespace Sys2Proof.Proofs

open Sys2Proof.Machine Sys2Proof.Laws

/-! ### The ticks a cycle still needs -/

/-- The ticks until the deadline has expired (R108): none once it has, by the count or by the overflow. -/
def ticksToExpiry (s : State) : Nat := if s.tov then 0 else s.deadline + 1 - s.tcnt

/-- The fewest ticks before STATE can become IDLE: a press still has the whole release hold after it (R113, R114). -/
def ticksLeft (s : State) : Nat :=
  match s.state with
  | .idle => 0
  | .pressing => ticksToExpiry s + (s.cfg.releaseHold + 1)
  | .releasing => ticksToExpiry s

theorem ticksToExpiry_of_expired {s : State} (h : s.deadline < s.tcnt ∨ s.tov = true) : ticksToExpiry s = 0 := by
  unfold ticksToExpiry
  split
  · rfl
  · next htov =>
    have hlt : s.deadline < s.tcnt := h.resolve_right htov
    omega

theorem ticksToExpiry_of_counter_reset {s : State} (hcnt : s.tcnt = 0) (htov : s.tov = false) :
    ticksToExpiry s = s.deadline + 1 := by
  simp [ticksToExpiry, hcnt, htov]

theorem ticksLeft_of_idle {s : State} (hs : s.state = .idle) : ticksLeft s = 0 := by simp only [ticksLeft, hs]

theorem ticksLeft_of_pressing {s : State} (hs : s.state = .pressing) :
    ticksLeft s = ticksToExpiry s + (s.cfg.releaseHold + 1) := by simp only [ticksLeft, hs]

theorem ticksLeft_of_releasing {s : State} (hs : s.state = .releasing) : ticksLeft s = ticksToExpiry s := by
  simp only [ticksLeft, hs]

theorem ticksLeft_congr {s t : State} (hcfg : t.cfg = s.cfg) (hstate : t.state = s.state)
    (hdeadline : t.deadline = s.deadline) (hcnt : t.tcnt = s.tcnt) (htov : t.tov = s.tov) :
    ticksLeft t = ticksLeft s := by
  simp only [ticksLeft, ticksToExpiry, hcfg, hstate, hdeadline, hcnt, htov]

/-! ### Only TICK uses ticks up -/

/-- A tick brings expiry nearer by one at most, even where it overflows, since no deadline lies past the overflow. -/
theorem ticksToExpiry_le_tickCounter {s : State} (hwidth : s.deadline < 2 ^ s.cfg.timerW) :
    ticksToExpiry s ≤ ticksToExpiry (tickCounter s) + 1 := by
  by_cases hexp : s.deadline < s.tcnt ∨ s.tov = true
  · rw [ticksToExpiry_of_expired hexp]
    exact Nat.zero_le _
  · obtain ⟨hle, htov⟩ := not_or.1 hexp
    by_cases hfits : s.tcnt + 1 < 2 ^ s.cfg.timerW
    · simp only [tickCounter_no_wrap hfits, ticksToExpiry, if_neg htov]
      omega
    · rw [ticksToExpiry, if_neg htov]
      omega

theorem ticksLeft_le_tickCounter {s : State} (hwidth : s.deadline < 2 ^ s.cfg.timerW) :
    ticksLeft s ≤ ticksLeft (tickCounter s) + 1 := by
  have hexpiry := ticksToExpiry_le_tickCounter hwidth
  cases hs : s.state with
  | idle => rw [ticksLeft_of_idle hs]; exact Nat.zero_le _
  | pressing =>
    have ht : (tickCounter s).state = .pressing := hs
    rw [ticksLeft_of_pressing hs, ticksLeft_of_pressing ht, tickCounter_cfg]
    omega
  | releasing =>
    have ht : (tickCounter s).state = .releasing := hs
    rwa [ticksLeft_of_releasing hs, ticksLeft_of_releasing ht]

theorem ticksLeft_le_of_tickStep {s t : State} (hwidth : s.deadline < 2 ^ s.cfg.timerW) (h : tickStep s = .next t) :
    ticksLeft s ≤ ticksLeft t + 1 := by
  obtain ⟨-, rfl⟩ | ⟨-, rfl⟩ := tickStep_next h
  · exact ticksLeft_le_tickCounter hwidth
  · exact Nat.le_succ _

/-- A PASS ends a press or a release only when it has expired, and a press then has its whole release hold to come. -/
theorem ticksLeft_le_of_passStep {s t : State} (h : passStep s = .next t) : ticksLeft s ≤ ticksLeft t := by
  have hblink : ticksLeft (blinkStep s) = ticksLeft s := by apply ticksLeft_congr <;> simp
  obtain ⟨-, -, rfl⟩ | ⟨-, hs, -⟩ | ⟨-, -, -, rfl⟩ | ⟨-, hs, hexp, rfl⟩ | ⟨-, hs, hexp, -⟩ := passStep_next h
  · exact le_rfl
  · rw [ticksLeft_of_idle hs]
    exact Nat.zero_le _
  · exact hblink.ge
  · rw [ticksLeft_of_pressing hs, ticksToExpiry_of_expired hexp, ticksLeft_of_releasing rfl,
      ticksToExpiry_of_counter_reset rfl rfl, Nat.zero_add]
  · rw [ticksLeft_of_releasing hs, ticksToExpiry_of_expired hexp]
    exact Nat.zero_le _

/-- By the writers of what the bound reads, no move but TICK, PASS and RESET touches it. -/
theorem ticksLeft_le_of_perform {m : Move} {s t : State} (hwidth : s.deadline < 2 ^ s.cfg.timerW) (hm : m ≠ .reset)
    (h : perform m s = .next t) : ticksLeft s ≤ ticksLeft t + tickCount [m] := by
  obtain rfl | htick := eq_or_ne m .tick
  · exact ticksLeft_le_of_tickStep hwidth h
  obtain rfl | hpass := eq_or_ne m .pass
  · exact ticksLeft_le_of_passStep h
  obtain ⟨hcfg, hsequencer, hcounter, -⟩ := eachRegisterHasItsWriters m s t h
  simp only [htick, hpass, hm, or_self, imp_false, not_or, not_not] at hsequencer hcounter
  obtain ⟨hstate, hdeadline, -, -⟩ := hsequencer
  obtain ⟨hcnt, htov⟩ := hcounter
  exact (ticksLeft_congr hcfg hstate hdeadline hcnt htov).ge.trans (Nat.le_add_right _ _)

/-! ### The run -/

theorem passStep_keeps_deadlineWidth {s t : State} (hcfg : configOk s.cfg = true)
    (hwidth : s.deadline < 2 ^ s.cfg.timerW) (h : passStep s = .next t) : t.deadline < 2 ^ s.cfg.timerW := by
  obtain ⟨-, -, rfl⟩ | ⟨-, -, ⟨-, rfl⟩ | ⟨-, rfl⟩ | ⟨-, rfl⟩ | ⟨-, rfl⟩ | ⟨-, rfl⟩⟩ | ⟨-, -, -, rfl⟩ | ⟨-, -, -, rfl⟩ |
    ⟨-, -, -, rfl⟩ := passStep_next h
  case inr.inl.inr.inr.inr.inl => exact durationOf_lt hcfg _
  case inr.inr.inr.inl => exact releaseHold_lt hcfg
  all_goals simpa using hwidth

/-- DEADLINE fits its register (10_state.md R12): only a PASS and a RESET write it. -/
theorem perform_keeps_deadlineWidth {m : Move} {s t : State} (hcfg : configOk s.cfg = true)
    (hwidth : s.deadline < 2 ^ s.cfg.timerW) (h : perform m s = .next t) : t.deadline < 2 ^ t.cfg.timerW := by
  obtain ⟨hc, hsequencer, -⟩ := eachRegisterHasItsWriters m s t h
  rw [hc]
  by_cases hsame : t.deadline = s.deadline
  · rwa [hsame]
  · obtain rfl | rfl := hsequencer (.inr (.inl hsame))
    · exact passStep_keeps_deadlineWidth hcfg hwidth h
    · cases h
      exact Nat.mod_lt _ (Nat.two_pow_pos _)

/-- A full MBOX is cleared only in IDLE, by an expired release, or by a RESET (20_memory.md R47). -/
theorem perform_mbox_of_ticksLeft {m : Move} {s t : State} (hfull : s.mbox ≠ 0x00#8) (hm : m ≠ .reset)
    (hleft : 0 < ticksLeft s) (h : perform m s = .next t) : t.mbox = s.mbox := by
  by_contra hne
  obtain ⟨-, hempty, -⟩ | ⟨-, -, hs, -⟩ | ⟨-, -, hs, -, hexp⟩ | ⟨rfl, -⟩ := mailboxProtocol m s t h hne
  · exact hfull hempty
  · exact hleft.ne' (ticksLeft_of_idle hs)
  · exact hleft.ne' ((ticksLeft_of_releasing hs).trans (ticksToExpiry_of_expired hexp))
  · exact hm rfl

theorem tickCount_cons (m : Move) (ms : List Move) : tickCount (m :: ms) = tickCount [m] + tickCount ms :=
  List.count_append (l₁ := [m])

/-- With fewer ticks than the cycle needs, a run without RESET ends before the cycle does. -/
theorem runMoves_keeps_mbox {ms : List Move} {s t : State} (hcfg : configOk s.cfg = true)
    (hwidth : s.deadline < 2 ^ s.cfg.timerW) (hfull : s.mbox ≠ 0x00#8) (hms : Move.reset ∉ ms)
    (hticks : tickCount ms < ticksLeft s) (h : runMoves ms s = .next t) : t.mbox = s.mbox ∧ t.state ≠ .idle := by
  induction ms generalizing s with
  | nil =>
    cases h
    exact ⟨rfl, fun hs => absurd hticks (by simp [ticksLeft_of_idle hs])⟩
  | cons m ms ih =>
    obtain ⟨u, hmove, hrest⟩ := runMoves_cons_next h
    obtain ⟨hm, hms⟩ : Move.reset ≠ m ∧ Move.reset ∉ ms := by simpa using hms
    have hmbox : u.mbox = s.mbox := perform_mbox_of_ticksLeft hfull hm.symm (by omega) hmove
    have hleft := ticksLeft_le_of_perform hwidth hm.symm hmove
    rw [tickCount_cons] at hticks
    rw [← hmbox] at hfull ⊢
    exact ih (perform_keeps_cfg hmove ▸ hcfg) (perform_keeps_deadlineWidth hcfg hwidth hmove) hfull hms (by omega) hrest

/-- Settles O58: a fresh press has the whole of both phases before it, and a key command in MBOX is no empty one. -/
theorem busyMailboxKeepsTheCommand : Obligations.BusyMailboxKeepsTheCommand := by
  intro s t ms hcfg _ hs hdeadline hk hcnt htov hms hticks h
  have hfull : s.mbox ≠ 0x00#8 := fun h0 => absurd (h0 ▸ hk) (by decide)
  have hleft : ticksLeft s = (durationOf s.cfg s.mbox + 1) + (s.cfg.releaseHold + 1) := by
    rw [ticksLeft_of_pressing hs, ticksToExpiry_of_counter_reset hcnt htov, hdeadline]
  exact runMoves_keeps_mbox hcfg (hdeadline ▸ durationOf_lt hcfg _) hfull hms (hleft ▸ hticks) h

end Sys2Proof.Proofs

/-! PROOF. Whole transactions on the bus (70_reset_and_hazards.md R145, R146), as scripts of presented words and EVENTs. -/

namespace Sys2Proof.Proofs

open Sys2Proof.Machine Sys2Proof.Laws

theorem runMoves_append_of_next {xs : List Move} {s t : State} (h : runMoves xs s = .next t) (ys : List Move) :
    runMoves (xs ++ ys) s = runMoves ys t := by rw [runMoves_append, h]

/-- A word presented on a free EVT_IN and then taken: its arm's effect, with EVT_IN free again (30_encoding.md R59). -/
theorem runMoves_scriptEv {w : EvtWord} {i : Instr} (hd : decodeEvt w = i) {s : State} (hr : s.run = .running)
    (hi : s.ie = true) (he : s.evtIn = none) : runMoves (scriptEv w) s = .next (receiverArm i s) := by
  have hpresent : presentWord w s = { s with evtIn := some w } := by simp only [presentWord, he]
  have hfree : { s with evtIn := none } = s := by rw [← he]
  have hevent : perform .event { s with evtIn := some w } = .next (receiverArm i s) := by
    rw [perform, eventStep_of_presented rfl, hd, exec_event_enabled hd (by exact hr) (by exact hi), hfree]
  calc runMoves (scriptEv w) s
    _ = runMoves [.event] (presentWord w s) := rfl
    _ = runMoves [] (receiverArm i s) := by simp only [hpresent, runMoves, hevent]

/-- Settles O59: the address and the second byte only re-arm, and the first byte goes into an empty MBOX. -/
theorem twoByteWriteStoresTheFirstByte : Obligations.TwoByteWriteStoresTheFirstByte := by
  intro b c s hr hi he
  obtain ⟨haddrRx, -⟩ := decodeEvt_evtWordOf 0x00#8
  obtain ⟨-, hdataRx, -⟩ := decodeEvt_evtWordOf b
  obtain ⟨-, -, hdataNack, -⟩ := decodeEvt_evtWordOf c
  have haddressed := runMoves_scriptEv haddrRx hr hi he
  have hstored := runMoves_scriptEv (s := rearm s) hdataRx hr hi he
  have hdropped := runMoves_scriptEv (s := receiveByte b (rearm s)) hdataNack hr hi he
  have hfirst := (runMoves_append_of_next haddressed _).trans hstored
  exact (runMoves_append_of_next hfirst _).trans hdropped

/-- Settles O60: the read puts 0xFF in TXDATA, and the reported status is then the word of an EV_OTHER, which is fatal. -/
theorem readThenUnmappedStatusIsFatal : Obligations.ReadThenUnmappedStatusIsFatal := by
  intro st d s hr hi he hclass
  obtain ⟨-, -, -, -, haddrTx, -⟩ := decodeEvt_evtWordOf 0x00#8
  have hother : decodeEvt (reportWord s.cfg st d) = .evOther st := by
    have := reportedStatusDecodes s.cfg st d
    rwa [hclass] at this
  have hread := runMoves_scriptEv haddrTx hr hi he
  have hfatal := runMoves_scriptEv (s := rearm { s with txdata := 0xFF#8 }) hother hr hi he
  exact ⟨_, (runMoves_append_of_next hread _).trans hfatal, rfl, rfl, rfl, rfl, rfl, rfl, rfl, rfl⟩

end Sys2Proof.Proofs

/-! PROOF. The decoder and the encoder as a whole (30_encoding.md R50 to R57): they agree on the words of the two tables, and
the decoder accepts bytes exactly when they carry such a word, so they agree on bytes. -/

namespace Sys2Proof.Proofs

open Sys2Proof.Machine Sys2Proof.Laws

/-! ### Words and instructions (R51, R55) -/

/-- The instruction a word of either format decodes to. -/
def decodeEncoded : Encoded → Instr
  | .cmd c => decodeCmd c
  | .evt w => decodeEvt w

theorem le_toNat_of_highNibble_ne_zero {c : Byte} (h : c.extractLsb' 4 4 ≠ 0#4) : 0x10 ≤ c.toNat := by
  obtain ⟨n, rfl⟩ | hc := byte_low_or_high c
  · revert n; decide
  · exact hc

/-- Encoding loses nothing. CMD_IGN needs its condition: with a low byte it would decode as that byte's command. -/
theorem decodeEncoded_encodeWord {i : Instr} (hwf : i.wf = true) : decodeEncoded (encodeWord i) = i := by
  cases i with
  | cmdIgn c => exact decodeCmd_of_ge (le_toNat_of_highNibble_ne_zero (bne_iff_ne.1 hwf))
  | evAddrRx p | evDataRx p | evDataNack p | evStop p | evAddrTx p | evBusErr p | evOther p | evReserved7 p =>
    simp only [encodeWord, decodeEncoded, decodeEvt_evtWordOf]
  | _ => rfl

/-- A command byte is the one encoding of its instruction, which is well formed. -/
theorem wf_encodeWord_decodeCmd (c : Byte) : (decodeCmd c).wf = true ∧ encodeWord (decodeCmd c) = .cmd c := by
  obtain ⟨n, rfl⟩ | h := byte_low_or_high c
  · revert n; decide
  · rw [decodeCmd_of_ge h]
    exact ⟨bne_iff_ne.2 (highNibble_ne_zero h), rfl⟩

/-- An event word is the one encoding of its instruction, which is well formed. -/
theorem wf_encodeWord_decodeEvt (w : EvtWord) : (decodeEvt w).wf = true ∧ encodeWord (decodeEvt w) = .evt w := by
  obtain ⟨p, ⟨rfl, hd⟩ | ⟨rfl, hd⟩ | ⟨rfl, hd⟩ | ⟨rfl, hd⟩ | ⟨rfl, hd⟩ | ⟨rfl, hd⟩ | ⟨rfl, hd⟩ | ⟨rfl, hd⟩⟩ :=
    decodeEvt_cases w <;> exact hd ▸ ⟨rfl, rfl⟩

theorem wf_encodeWord_decodeEncoded (e : Encoded) :
    (decodeEncoded e).wf = true ∧ encodeWord (decodeEncoded e) = e := by
  cases e with
  | cmd c => exact wf_encodeWord_decodeCmd c
  | evt w => exact wf_encodeWord_decodeEvt w

/-! ### Bytes and words (R50, R54; log 15)

An event word lies in two bytes: its payload, then its class below five zero bits. -/

/-- The two bytes of an event word carry it back, and its class leaves the five high bits zero. -/
theorem evtOfBytes_encodedBytes (w : EvtWord) :
    (0#5 ++ evtClassBits w : Byte).extractLsb' 3 5 = 0#5 ∧ evtOfBytes (evtPayload w) (0#5 ++ evtClassBits w) = w := by
  refine ⟨BitVec.extractLsb'_append_eq_left, ?_⟩
  calc evtOfBytes (evtPayload w) (0#5 ++ evtClassBits w)
    _ = evtWordOf ((0#5 ++ evtClassBits w).extractLsb' 0 3) (evtPayload w) := rfl
    _ = evtWordOf (evtClassBits w) (evtPayload w) := by rw [BitVec.extractLsb'_append_eq_right]
    _ = w := evtWordOf_parts w

/-- A second byte whose five high bits are zero is given by its three low ones. -/
theorem append_lowBits_of_highBits_eq_zero {hi : Byte} (h : hi.extractLsb' 3 5 = 0#5) :
    0#5 ++ hi.extractLsb' 0 3 = hi := by
  calc 0#5 ++ hi.extractLsb' 0 3
    _ = hi.extractLsb' 3 5 ++ hi.extractLsb' 0 3 := by rw [h]
    _ = hi.extractLsb' 0 8 := BitVec.extractLsb'_append_extractLsb'_eq_extractLsb' (by decide)
    _ = hi := BitVec.extractLsb'_eq_self

theorem encodedBytes_evtOfBytes {lo hi : Byte} (h : hi.extractLsb' 3 5 = 0#5) :
    encodedBytes (.evt (evtOfBytes lo hi)) = [lo, hi] := by
  have hparts : evtOfBytes lo hi = evtWordOf (hi.extractLsb' 0 3) lo := rfl
  rw [encodedBytes, hparts, evtPayload_evtWordOf, evtClassBits_evtWordOf, append_lowBits_of_highBits_eq_zero h]

/-- The bytes of a word decode to what the word decodes to. -/
theorem decode_encodedBytes (e : Encoded) : decode (encodedFormat e) (encodedBytes e) = .ok (decodeEncoded e) := by
  cases e with
  | cmd c => rfl
  | evt w =>
    obtain ⟨hhigh, hword⟩ := evtOfBytes_encodedBytes w
    rw [encodedFormat, encodedBytes, decode, if_pos hhigh, hword, decodeEncoded]

/-- The decoder accepts only the bytes of a word. -/
theorem decode_eq_ok {f : Format} {bs : List Byte} {i : Instr} (h : decode f bs = .ok i) :
    ∃ e, encodedFormat e = f ∧ encodedBytes e = bs ∧ decodeEncoded e = i := by
  unfold decode at h
  split at h
  case h_1 =>
    split at h
    case h_1 c => exact ⟨.cmd c, rfl, rfl, Except.ok.inj h⟩
    case h_2 => cases h
  case h_2 =>
    split at h
    case h_1 lo hi =>
      split at h
      case isTrue hhigh => exact ⟨.evt (evtOfBytes lo hi), rfl, encodedBytes_evtOfBytes hhigh, Except.ok.inj h⟩
      case isFalse => cases h
    case h_2 => cases h

/-! ### The two round trips -/

/-- Settles O2: the bytes of an encoding decode as its word, and the word decodes to the instruction. -/
theorem decodeEncodeRoundTrip : Obligations.DecodeEncodeRoundTrip := by
  intro i hwf
  calc decode (encode i).1 (encode i).2
    _ = .ok (decodeEncoded (encodeWord i)) := decode_encodedBytes (encodeWord i)
    _ = .ok i := by rw [decodeEncoded_encodeWord hwf]

/-- Settles O3: accepted bytes are those of a word, and a word is the encoding of the instruction it decodes to. -/
theorem decodedBytesAreTheEncoding : Obligations.DecodedBytesAreTheEncoding := by
  intro f bs i h
  obtain ⟨e, rfl, rfl, rfl⟩ := decode_eq_ok h
  obtain ⟨hwf, hword⟩ := wf_encodeWord_decodeEncoded e
  exact ⟨hwf, by rw [encode, hword]⟩

end Sys2Proof.Proofs
